-- ==== Sys2Proof/Word.lean ====
section
/-! DEFINITION. The word types of the core (spec/00_scope.md R10, R24) and nothing else. -/

namespace Sys2Proof

/-- A 32-bit value: register contents, addresses, pc, immediates after extension (R10). -/
abbrev Word := BitVec 32

/-- One byte of data memory (R45). -/
abbrev Byte := BitVec 8

/-- A register number: the 5-bit rd, rs1 or rs2 field of a word; conditions on register numbers
compare the 5-bit numbers (R24, R42). -/
abbrev Reg := BitVec 5

end Sys2Proof
end

