-- ==== Sys2Proof/Config.lean ====
section
/-! DEFINITION. What is fixed for this hardware, what the spec leaves free, and the values the model
names for the construction inputs of `State.reset` (spec/00_scope.md R12 to R17). -/

namespace Sys2Proof.Config

/-- MEM_SIZE, the number of bytes of data memory (R12, D28). The spec keeps it a named parameter
because the literal is unaudited; log 18. -/
def memSize : Nat := 1024

/-- SD_HIGH: the 32-bit value an SD writes to its upper four bytes (R244, D13), "any 32-bit value,
chosen afresh for each SD". The argument is the number of the draw. It has no body: nothing can be
proved about its values. DESIGN CHOICE, safe; log 7. -/
opaque sdHigh : Nat → Word

/-- What a byte of data memory that nothing has written and the host has not supplied reads as.
INIT_MEM is unspecified (R45). DESIGN CHOICE, unsafe; log 2. -/
def memFill : Byte := 0

/-- The contents of x1 to x31 in `State.reset`. INIT_REGS is unspecified (R34).
DESIGN CHOICE, unsafe; log 1. -/
def resetRegister : Word := 0

/-- FWD in `State.reset`. It is a construction input with no default (R13).
DESIGN CHOICE, unsafe; log 3. -/
def resetForwarding : Bool := true

/-- T in `State.reset`. It is a construction input with no default (R14).
DESIGN CHOICE, unsafe; log 3. -/
def resetCycles : Nat := 0

end Sys2Proof.Config
end

