-- ==== Sys2Proof/Syntax.lean ====
section
/-! DEFINITION. The instructions of the core: one constructor for each row of spec/opcode_table.json
(spec/30_encoding.md R147). Immediates are the 32-bit values after extension (R42, R104 to R108), shift
amounts the five bits raw[24:20] (R109). -/

namespace Sys2Proof

inductive Instr where
  /-- R180 -/
  | add (rd rs1 rs2 : Reg)
  /-- R181 -/
  | sub (rd rs1 rs2 : Reg)
  /-- R182 -/
  | sll (rd rs1 rs2 : Reg)
  /-- R183 -/
  | srl (rd rs1 rs2 : Reg)
  /-- R184 -/
  | sra (rd rs1 rs2 : Reg)
  /-- R185 -/
  | mul (rd rs1 rs2 : Reg)
  /-- R186 -/
  | div (rd rs1 rs2 : Reg)
  /-- R200 -/
  | addi (rd rs1 : Reg) (imm : Word)
  /-- R201: the SLTI encoding, which computes ADD -/
  | slti (rd rs1 : Reg) (imm : Word)
  /-- R202: the SLTIU encoding, which computes ADD -/
  | sltiu (rd rs1 : Reg) (imm : Word)
  /-- R203: the XORI encoding, which computes ADD -/
  | xori (rd rs1 : Reg) (imm : Word)
  /-- R204: the ORI encoding, which computes ADD -/
  | ori (rd rs1 : Reg) (imm : Word)
  /-- R205: the ANDI encoding, which computes ADD -/
  | andi (rd rs1 : Reg) (imm : Word)
  /-- R206 -/
  | slli (rd rs1 : Reg) (shamt : BitVec 5)
  /-- R207 -/
  | srli (rd rs1 : Reg) (shamt : BitVec 5)
  /-- R208 -/
  | srai (rd rs1 : Reg) (shamt : BitVec 5)
  /-- R210 -/
  | lui (rd : Reg) (imm : Word)
  /-- R211 -/
  | auipc (rd : Reg) (imm : Word)
  /-- R231 -/
  | lb (rd rs1 : Reg) (imm : Word)
  /-- R232 -/
  | lh (rd rs1 : Reg) (imm : Word)
  /-- R233 -/
  | lw (rd rs1 : Reg) (imm : Word)
  /-- R234 -/
  | lbu (rd rs1 : Reg) (imm : Word)
  /-- R235 -/
  | lhu (rd rs1 : Reg) (imm : Word)
  /-- R241 -/
  | sb (rs1 rs2 : Reg) (imm : Word)
  /-- R242 -/
  | sh (rs1 rs2 : Reg) (imm : Word)
  /-- R243 -/
  | sw (rs1 rs2 : Reg) (imm : Word)
  /-- R244 -/
  | sd (rs1 rs2 : Reg) (imm : Word)
  /-- R261 -/
  | beq (rs1 rs2 : Reg) (imm : Word)
  /-- R262 -/
  | bne (rs1 rs2 : Reg) (imm : Word)
  /-- R263 -/
  | blt (rs1 rs2 : Reg) (imm : Word)
  /-- R264 -/
  | bge (rs1 rs2 : Reg) (imm : Word)
  /-- R265 -/
  | bltu (rs1 rs2 : Reg) (imm : Word)
  /-- R266 -/
  | bgeu (rs1 rs2 : Reg) (imm : Word)
  /-- R267 -/
  | jal (rd : Reg) (imm : Word)
  /-- R268 -/
  | jalr (rd rs1 : Reg) (imm : Word)
  /-- R290: the zero word or an absent word -/
  | nop
  /-- R291: any word whose opcode is not recognised -/
  | unknown
  deriving DecidableEq, Repr

end Sys2Proof
end

