-- ==== Sys2Proof/WellFormed.lean ====
section
/-! DEFINITION. Which instructions an encoding can hold: the immediate is the extension of a field of the
width and shape its format has (spec/30_encoding.md R104 to R108). -/

namespace Sys2Proof

/-- A sign-extended 12-bit immediate, formats I and S (R104, R105). -/
def fitsTwelve (imm : Word) : Bool := (imm.extractLsb' 0 12).signExtend 32 == imm

/-- A sign-extended 13-bit immediate with a zero bit 0, format B (R106). -/
def fitsBranch (imm : Word) : Bool :=
  (imm.extractLsb' 0 13).signExtend 32 == imm && imm.extractLsb' 0 1 == 0#1

/-- Twenty upper bits over twelve zeros, format U (R107). -/
def fitsUpper (imm : Word) : Bool := imm.extractLsb' 0 12 == 0#12

/-- A sign-extended 21-bit immediate with a zero bit 0, format J (R108). -/
def fitsJump (imm : Word) : Bool :=
  (imm.extractLsb' 0 21).signExtend 32 == imm && imm.extractLsb' 0 1 == 0#1

/-- Some word encodes this instruction. -/
def Instr.wellFormed : Instr → Bool
  | .add _ _ _ | .sub _ _ _ | .sll _ _ _ | .srl _ _ _ | .sra _ _ _ | .mul _ _ _ | .div _ _ _ => true
  | .addi _ _ imm | .slti _ _ imm | .sltiu _ _ imm | .xori _ _ imm | .ori _ _ imm | .andi _ _ imm =>
    fitsTwelve imm
  | .slli _ _ _ | .srli _ _ _ | .srai _ _ _ => true
  | .lui _ imm | .auipc _ imm => fitsUpper imm
  | .lb _ _ imm | .lh _ _ imm | .lw _ _ imm | .lbu _ _ imm | .lhu _ _ imm => fitsTwelve imm
  | .sb _ _ imm | .sh _ _ imm | .sw _ _ imm | .sd _ _ imm => fitsTwelve imm
  | .beq _ _ imm | .bne _ _ imm | .blt _ _ imm | .bge _ _ imm | .bltu _ _ imm | .bgeu _ _ imm =>
    fitsBranch imm
  | .jal _ imm => fitsJump imm
  | .jalr _ _ imm => fitsTwelve imm
  | .nop | .unknown => true

end Sys2Proof
end

