-- ==== Sys2Proof/Decode.lean ====
section
/-! DEFINITION. The InstructionDecoder (spec/30_encoding.md R100 to R115), the map from a decoded record
to an instruction (R137, R147), and the encoder. The instruction store holds whole words, so there is no
byte order to decide (R76). The field positions and the opcode numbers 0x33, 0x37, 0x17, 0x6F are the
rules' own, which the spec marks as general knowledge; PRESUMED, log 13. -/

namespace Sys2Proof

/-! ## The record (10_state.md R41, R42) -/

/-- The format tag with the payload it makes valid: no two formats' fields are meaningful together. -/
inductive Payload where
  | r (rd rs1 rs2 : Reg) (funct3 : BitVec 3) (funct7 : BitVec 7)
  | i (rd rs1 : Reg) (funct3 : BitVec 3) (imm : Word)
  | s (rs1 rs2 : Reg) (funct3 : BitVec 3) (imm : Word)
  | b (rs1 rs2 : Reg) (funct3 : BitVec 3) (imm : Word)
  | u (rd : Reg) (imm : Word)
  | j (rd : Reg) (imm : Word)
  | nop
  | unknown
  deriving DecidableEq, Repr

/-- An instruction record: the raw word, its opcode, and its format with payload. -/
structure Record where
  raw : Word
  opcode : BitVec 7
  payload : Payload
  deriving DecidableEq, Repr

/-- Why a record of a recognised format stands for no instruction (R137 (a) to (d)). `format` is for a
record whose opcode and format do not belong together, which the decoder never makes. -/
inductive Unsupported where
  | rType
  | load
  | store
  | branch
  | format
  deriving DecidableEq, Repr

/-! ## Fields and immediates (R101 to R108) -/

def opcodeOf (w : Word) : BitVec 7 := w.extractLsb' 0 7
def rdOf (w : Word) : Reg := w.extractLsb' 7 5
def funct3Of (w : Word) : BitVec 3 := w.extractLsb' 12 3
def rs1Of (w : Word) : Reg := w.extractLsb' 15 5
def rs2Of (w : Word) : Reg := w.extractLsb' 20 5
def funct7Of (w : Word) : BitVec 7 := w.extractLsb' 25 7

/-- sext_32(raw[31:20]) (R104). -/
def immI (w : Word) : Word := (w.extractLsb' 20 12).signExtend 32

/-- sext_32(raw[31:25] ‖ raw[11:7]) (R105). -/
def immS (w : Word) : Word := (w.extractLsb' 25 7 ++ w.extractLsb' 7 5 : BitVec 12).signExtend 32

/-- sext_32(raw[31] ‖ raw[7] ‖ raw[30:25] ‖ raw[11:8] ‖ 0) (R106). -/
def immB (w : Word) : Word :=
  (w.extractLsb' 31 1 ++ w.extractLsb' 7 1 ++ w.extractLsb' 25 6 ++ w.extractLsb' 8 4 ++ 0#1 :
    BitVec 13).signExtend 32

/-- raw[31:12] ‖ 0^12 (R107). -/
def immU (w : Word) : Word := w.extractLsb' 12 20 ++ 0#12

/-- sext_32(raw[31] ‖ raw[19:12] ‖ raw[20] ‖ raw[30:21] ‖ 0) (R108). -/
def immJ (w : Word) : Word :=
  (w.extractLsb' 31 1 ++ w.extractLsb' 12 8 ++ w.extractLsb' 20 1 ++ w.extractLsb' 21 10 ++ 0#1 :
    BitVec 21).signExtend 32

/-! ## The decoder (R110 to R113) -/

/-- The record of a NOP: raw = 0 and opcode = 0 (R42). -/
def nopRecord : Record := ⟨0, 0, .nop⟩

/-- The six format decoders, by opcode (R110, R111). -/
def payloadOf (w : Word) : Payload :=
  if opcodeOf w = 0x33 then .r (rdOf w) (rs1Of w) (rs2Of w) (funct3Of w) (funct7Of w)
  else if opcodeOf w = 0x13 ∨ opcodeOf w = 0x03 ∨ opcodeOf w = 0x67 then
    .i (rdOf w) (rs1Of w) (funct3Of w) (immI w)
  else if opcodeOf w = 0x23 then .s (rs1Of w) (rs2Of w) (funct3Of w) (immS w)
  else if opcodeOf w = 0x63 then .b (rs1Of w) (rs2Of w) (funct3Of w) (immB w)
  else if opcodeOf w = 0x37 ∨ opcodeOf w = 0x17 then .u (rdOf w) (immU w)
  else if opcodeOf w = 0x6F then .j (rdOf w) (immJ w)
  else .unknown

/-- The decoder on a word that is present. The zero test comes before the dispatch (R113). -/
def decodeRecord (w : Word) : Record :=
  if w = 0 then nopRecord else ⟨w, opcodeOf w, payloadOf w⟩

/-- The decoder on a fetched word or the absence of one (R110). -/
def decodeFetched : Option Word → Record
  | none => nopRecord
  | some w => decodeRecord w

/-! ## From a record to its instruction (R121, R123, R137, R138, R147) -/

def rTypeInstr (rd rs1 rs2 : Reg) (funct3 : BitVec 3) (funct7 : BitVec 7) : Except Unsupported Instr :=
  if funct7 = 0x00 ∧ funct3 = 0x0 then .ok (.add rd rs1 rs2)
  else if funct7 = 0x20 ∧ funct3 = 0x0 then .ok (.sub rd rs1 rs2)
  else if funct7 = 0x00 ∧ funct3 = 0x1 then .ok (.sll rd rs1 rs2)
  else if funct7 = 0x00 ∧ funct3 = 0x5 then .ok (.srl rd rs1 rs2)
  else if funct7 = 0x20 ∧ funct3 = 0x5 then .ok (.sra rd rs1 rs2)
  else if funct7 = 0x01 ∧ funct3 = 0x0 then .ok (.mul rd rs1 rs2)
  else if funct7 = 0x01 ∧ funct3 = 0x4 then .ok (.div rd rs1 rs2)
  else .error .rType

/-- Every funct3 has a meaning. Of a shift's immediate only raw[24:20], and raw[30] for funct3 5, are
examined (R109, R138). -/
def immediateInstr (raw : Word) (rd rs1 : Reg) (funct3 : BitVec 3) (imm : Word) : Instr :=
  if funct3 = 0 then .addi rd rs1 imm
  else if funct3 = 1 then .slli rd rs1 (imm.extractLsb' 0 5)
  else if funct3 = 2 then .slti rd rs1 imm
  else if funct3 = 3 then .sltiu rd rs1 imm
  else if funct3 = 4 then .xori rd rs1 imm
  else if funct3 = 5 then
    if raw.extractLsb' 30 1 = 1 then .srai rd rs1 (imm.extractLsb' 0 5)
    else .srli rd rs1 (imm.extractLsb' 0 5)
  else if funct3 = 6 then .ori rd rs1 imm
  else .andi rd rs1 imm

def loadInstr (rd rs1 : Reg) (funct3 : BitVec 3) (imm : Word) : Except Unsupported Instr :=
  if funct3 = 0 then .ok (.lb rd rs1 imm)
  else if funct3 = 1 then .ok (.lh rd rs1 imm)
  else if funct3 = 2 then .ok (.lw rd rs1 imm)
  else if funct3 = 4 then .ok (.lbu rd rs1 imm)
  else if funct3 = 5 then .ok (.lhu rd rs1 imm)
  else .error .load

def storeInstr (rs1 rs2 : Reg) (funct3 : BitVec 3) (imm : Word) : Except Unsupported Instr :=
  if funct3 = 0 then .ok (.sb rs1 rs2 imm)
  else if funct3 = 1 then .ok (.sh rs1 rs2 imm)
  else if funct3 = 2 then .ok (.sw rs1 rs2 imm)
  else if funct3 = 3 then .ok (.sd rs1 rs2 imm)
  else .error .store

def branchInstr (rs1 rs2 : Reg) (funct3 : BitVec 3) (imm : Word) : Except Unsupported Instr :=
  if funct3 = 0 then .ok (.beq rs1 rs2 imm)
  else if funct3 = 1 then .ok (.bne rs1 rs2 imm)
  else if funct3 = 4 then .ok (.blt rs1 rs2 imm)
  else if funct3 = 5 then .ok (.bge rs1 rs2 imm)
  else if funct3 = 6 then .ok (.bltu rs1 rs2 imm)
  else if funct3 = 7 then .ok (.bgeu rs1 rs2 imm)
  else .error .branch

/-- The instruction a record stands for, or why it stands for none. -/
def Record.instr (q : Record) : Except Unsupported Instr :=
  match q.payload with
  | .r rd rs1 rs2 f3 f7 => if q.opcode = 0x33 then rTypeInstr rd rs1 rs2 f3 f7 else .error .format
  | .i rd rs1 f3 imm =>
    if q.opcode = 0x13 then .ok (immediateInstr q.raw rd rs1 f3 imm)
    else if q.opcode = 0x03 then loadInstr rd rs1 f3 imm
    else if q.opcode = 0x67 then .ok (.jalr rd rs1 imm)
    else .error .format
  | .s rs1 rs2 f3 imm => if q.opcode = 0x23 then storeInstr rs1 rs2 f3 imm else .error .format
  | .b rs1 rs2 f3 imm => if q.opcode = 0x63 then branchInstr rs1 rs2 f3 imm else .error .format
  | .u rd imm =>
    if q.opcode = 0x37 then .ok (.lui rd imm)
    else if q.opcode = 0x17 then .ok (.auipc rd imm)
    else .error .format
  | .j rd imm => if q.opcode = 0x6F then .ok (.jal rd imm) else .error .format
  | .nop => .ok .nop
  | .unknown => .ok .unknown

/-- The instruction a word encodes, or the name of the unsupported class it falls in (R137). -/
def decode (w : Word) : Except Unsupported Instr := (decodeRecord w).instr

/-- The decoder on a table word: `nbits` of it are the table's, every bit above them is 0. -/
def decodeTableWord (nbits w : Nat) : Option Instr :=
  match decode (BitVec.ofNat 32 (w % 2 ^ nbits)) with
  | .ok i => some i
  | .error _ => none

/-! ## Operands a record names (R114, R115) -/

/-- The first source register: formats R, I, S, B. -/
def Record.rs1 (q : Record) : Option Reg :=
  match q.payload with
  | .r _ rs1 _ _ _ => some rs1
  | .i _ rs1 _ _ => some rs1
  | .s rs1 _ _ _ => some rs1
  | .b rs1 _ _ _ => some rs1
  | .u _ _ => none
  | .j _ _ => none
  | .nop => none
  | .unknown => none

/-- The second source register: formats R, S, B. The rs2 position of an I-type word is no source. -/
def Record.rs2 (q : Record) : Option Reg :=
  match q.payload with
  | .r _ _ rs2 _ _ => some rs2
  | .i _ _ _ _ => none
  | .s _ rs2 _ _ => some rs2
  | .b _ rs2 _ _ => some rs2
  | .u _ _ => none
  | .j _ _ => none
  | .nop => none
  | .unknown => none

/-- The destination register: formats R, I, U, J (R115). -/
def Record.rd (q : Record) : Option Reg :=
  match q.payload with
  | .r rd _ _ _ _ => some rd
  | .i rd _ _ _ => some rd
  | .s _ _ _ _ => none
  | .b _ _ _ _ => none
  | .u rd _ => some rd
  | .j rd _ => some rd
  | .nop => none
  | .unknown => none

/-- The source registers (R114). -/
def Record.sources (q : Record) : List Reg := q.rs1.toList ++ q.rs2.toList

/-! ## The encoder (R102, R103) -/

def encodeR (funct7 : BitVec 7) (funct3 : BitVec 3) (rd rs1 rs2 : Reg) : Word :=
  funct7 ++ rs2 ++ rs1 ++ funct3 ++ rd ++ 0x33#7

def encodeI (opcode : BitVec 7) (funct3 : BitVec 3) (rd rs1 : Reg) (imm : BitVec 12) : Word :=
  imm ++ rs1 ++ funct3 ++ rd ++ opcode

def encodeS (funct3 : BitVec 3) (rs1 rs2 : Reg) (imm : Word) : Word :=
  imm.extractLsb' 5 7 ++ rs2 ++ rs1 ++ funct3 ++ imm.extractLsb' 0 5 ++ 0x23#7

def encodeB (funct3 : BitVec 3) (rs1 rs2 : Reg) (imm : Word) : Word :=
  imm.extractLsb' 12 1 ++ imm.extractLsb' 5 6 ++ rs2 ++ rs1 ++ funct3 ++
    imm.extractLsb' 1 4 ++ imm.extractLsb' 11 1 ++ 0x63#7

def encodeU (opcode : BitVec 7) (rd : Reg) (imm : Word) : Word := imm.extractLsb' 12 20 ++ rd ++ opcode

def encodeJ (rd : Reg) (imm : Word) : Word :=
  imm.extractLsb' 20 1 ++ imm.extractLsb' 1 10 ++ imm.extractLsb' 11 1 ++ imm.extractLsb' 12 8 ++
    rd ++ 0x6F#7

/-- The word of an opcode-0x13 instruction other than a shift. -/
def encodeArith (funct3 : BitVec 3) (rd rs1 : Reg) (imm : Word) : Word :=
  encodeI 0x13 funct3 rd rs1 (imm.extractLsb' 0 12)

/-- The word of an instruction. Bits the decoder ignores are written 0 (funct3 of JALR, the other upper
bits of a shift), and UNKNOWN, which keeps no bit of its word, is written as 0x00000073.
DESIGN CHOICE, safe; log 17. -/
def encode : Instr → Word
  | .add rd rs1 rs2 => encodeR 0x00 0x0 rd rs1 rs2
  | .sub rd rs1 rs2 => encodeR 0x20 0x0 rd rs1 rs2
  | .sll rd rs1 rs2 => encodeR 0x00 0x1 rd rs1 rs2
  | .srl rd rs1 rs2 => encodeR 0x00 0x5 rd rs1 rs2
  | .sra rd rs1 rs2 => encodeR 0x20 0x5 rd rs1 rs2
  | .mul rd rs1 rs2 => encodeR 0x01 0x0 rd rs1 rs2
  | .div rd rs1 rs2 => encodeR 0x01 0x4 rd rs1 rs2
  | .addi rd rs1 imm => encodeArith 0x0 rd rs1 imm
  | .slti rd rs1 imm => encodeArith 0x2 rd rs1 imm
  | .sltiu rd rs1 imm => encodeArith 0x3 rd rs1 imm
  | .xori rd rs1 imm => encodeArith 0x4 rd rs1 imm
  | .ori rd rs1 imm => encodeArith 0x6 rd rs1 imm
  | .andi rd rs1 imm => encodeArith 0x7 rd rs1 imm
  | .slli rd rs1 shamt => encodeI 0x13 0x1 rd rs1 (0x00#7 ++ shamt)
  | .srli rd rs1 shamt => encodeI 0x13 0x5 rd rs1 (0x00#7 ++ shamt)
  | .srai rd rs1 shamt => encodeI 0x13 0x5 rd rs1 (0x20#7 ++ shamt)
  | .lui rd imm => encodeU 0x37 rd imm
  | .auipc rd imm => encodeU 0x17 rd imm
  | .lb rd rs1 imm => encodeI 0x03 0x0 rd rs1 (imm.extractLsb' 0 12)
  | .lh rd rs1 imm => encodeI 0x03 0x1 rd rs1 (imm.extractLsb' 0 12)
  | .lw rd rs1 imm => encodeI 0x03 0x2 rd rs1 (imm.extractLsb' 0 12)
  | .lbu rd rs1 imm => encodeI 0x03 0x4 rd rs1 (imm.extractLsb' 0 12)
  | .lhu rd rs1 imm => encodeI 0x03 0x5 rd rs1 (imm.extractLsb' 0 12)
  | .sb rs1 rs2 imm => encodeS 0x0 rs1 rs2 imm
  | .sh rs1 rs2 imm => encodeS 0x1 rs1 rs2 imm
  | .sw rs1 rs2 imm => encodeS 0x2 rs1 rs2 imm
  | .sd rs1 rs2 imm => encodeS 0x3 rs1 rs2 imm
  | .beq rs1 rs2 imm => encodeB 0x0 rs1 rs2 imm
  | .bne rs1 rs2 imm => encodeB 0x1 rs1 rs2 imm
  | .blt rs1 rs2 imm => encodeB 0x4 rs1 rs2 imm
  | .bge rs1 rs2 imm => encodeB 0x5 rs1 rs2 imm
  | .bltu rs1 rs2 imm => encodeB 0x6 rs1 rs2 imm
  | .bgeu rs1 rs2 imm => encodeB 0x7 rs1 rs2 imm
  | .jal rd imm => encodeJ rd imm
  | .jalr rd rs1 imm => encodeI 0x67 0x0 rd rs1 (imm.extractLsb' 0 12)
  | .nop => 0x00000000
  | .unknown => 0x00000073

end Sys2Proof
end

