-- ==== Sys2Proof/Machine/Memory.lean ====
section
/-! DEFINITION. The data memory (spec/20_memory.md R70 to R82): bytes held in one canonical form, the
bounds check, and the little-endian wide accesses of loads and stores. -/

namespace Sys2Proof.Machine

/-- Data memory: (address, byte) pairs, addresses strictly rising, no byte equal to the fill byte. -/
abbrev Memory := List Host.Cell

/-! ## Memory as data -/

/-- The byte at an address. -/
def Memory.read : Memory → Nat → Byte
  | [], _ => Config.memFill
  | (a, v) :: rest, x => if a = x then v else Memory.read rest x

/-- Set the byte at an address and keep the canonical form. -/
def Memory.write : Memory → Nat → Byte → Memory
  | [], x, v => if v = Config.memFill then [] else [(x, v)]
  | (a, w) :: rest, x, v =>
    if x < a then (if v = Config.memFill then (a, w) :: rest else (x, v) :: (a, w) :: rest)
    else if x = a then (if v = Config.memFill then rest else (x, v) :: rest)
    else (a, w) :: Memory.write rest x v

/-- Set consecutive bytes, the first at the given address. -/
def Memory.writeBytes : Memory → Nat → List Byte → Memory
  | m, _, [] => m
  | m, a, v :: rest => Memory.writeBytes (m.write a v) (a + 1) rest

/-- Every listed address is at least `low`, they rise strictly, and no byte is the fill byte. -/
def Memory.wfFrom : Nat → Memory → Bool
  | _, [] => true
  | low, (a, v) :: rest => decide (low ≤ a) && v != Config.memFill && Memory.wfFrom (a + 1) rest

/-- The canonical form. -/
def Memory.wf (m : Memory) : Bool := Memory.wfFrom 0 m

/-- Nothing is listed at or above MEM_SIZE. -/
def Memory.bounded (m : Memory) : Bool := m.all fun c => decide (c.1 < Config.memSize)

/-! ## Wide accesses -/

/-- An access of n bytes at `addr` is in range: the sum is on unbounded integers, so it cannot wrap, and a
partly in-range access is wholly out of range (R71 to R73, D19). -/
def inRange (addr n : Nat) : Bool := decide (addr + n ≤ Config.memSize)

/-- Width and signedness of a load (43_loads_stores.md R231 to R235). -/
inductive LoadKind where
  | byte | half | word | byteU | halfU
  deriving DecidableEq, Repr

/-- Width of a store (R241 to R244). -/
inductive StoreKind where
  | byte | half | word | double
  deriving DecidableEq, Repr

def LoadKind.size : LoadKind → Nat
  | .byte => 1
  | .half => 2
  | .word => 4
  | .byteU => 1
  | .halfU => 2

def StoreKind.size : StoreKind → Nat
  | .byte => 1
  | .half => 2
  | .word => 4
  | .double => 8

/-- Two bytes, the least significant at the lowest address (R71). -/
def Memory.read16 (m : Memory) (a : Nat) : BitVec 16 := m.read (a + 1) ++ m.read a

/-- Four bytes, the least significant at the lowest address (R71). -/
def Memory.read32 (m : Memory) (a : Nat) : Word :=
  m.read (a + 3) ++ m.read (a + 2) ++ m.read (a + 1) ++ m.read a

/-- ext_32(MemRead(addr, n)) for an in-range address (R230). -/
def Memory.loadValue (m : Memory) (k : LoadKind) (a : Nat) : Word :=
  match k with
  | .byte => (m.read a).signExtend 32
  | .half => (m.read16 a).signExtend 32
  | .word => m.read32 a
  | .byteU => (m.read a).setWidth 32
  | .halfU => (m.read16 a).setWidth 32

/-- Byte k of a 32-bit value, v[8k+7:8k] (R72). -/
def byteOf (v : Word) (k : Nat) : Byte := v.extractLsb' (8 * k) 8

/-- The bytes a store writes, the first at the lowest address: the low 8n bits of `d` for n <= 4, and for
SD `d` followed by the value drawn for SD_HIGH (R240 to R244). -/
def storeBytes (k : StoreKind) (d high : Word) : List Byte :=
  match k with
  | .byte => [byteOf d 0]
  | .half => [byteOf d 0, byteOf d 1]
  | .word => [byteOf d 0, byteOf d 1, byteOf d 2, byteOf d 3]
  | .double =>
    [byteOf d 0, byteOf d 1, byteOf d 2, byteOf d 3,
      byteOf high 0, byteOf high 1, byteOf high 2, byteOf high 3]

end Sys2Proof.Machine
end

