-- ==== Sys2Proof/Machine/State.lean ====
section
/-! DEFINITION. Everything the core holds (spec/10_state.md R30 to R63), as plain data, and the state right
after construction (spec/70_reset_and_hazards.md R410). INVENTORY.md lists each field with its rule. -/

namespace Sys2Proof.Machine

/-! ## Control signals (R43) -/

/-- The operations of the ALU. The spec's aluOp NONE is the absence of one: it has no ALU function
(R169). -/
inductive AluOp where
  | add | sub | mul | div | sll | srl | sra | slli | srli | srai
  deriving DecidableEq, Repr

/-- The control-signal record. `aluOp = none` is the spec's NONE. -/
structure Control where
  regWrite : Bool
  memRead : Bool
  memWrite : Bool
  branch : Bool
  aluOp : Option AluOp
  deriving DecidableEq, Repr

/-- Every signal false and aluOp NONE: NOP, UNKNOWN, a bubble (R130). -/
def Control.idle : Control := ⟨false, false, false, false, none⟩

/-! ## Pipeline latches (R46 to R50) -/

/-- IF/ID (R47). -/
structure IfId where
  ins : Record
  pc : Word
  id : Option Nat
  deriving DecidableEq, Repr

/-- ID/EX (R48). -/
structure IdEx where
  ins : Record
  pc : Word
  id : Option Nat
  ctl : Control
  a : Word
  b : Word
  deriving DecidableEq, Repr

/-- EX/MEM (R49). -/
structure ExMem where
  ins : Record
  pc : Word
  id : Option Nat
  ctl : Control
  aluResult : Word
  storeData : Word
  deriving DecidableEq, Repr

/-- MEM/WB (R50). -/
structure MemWb where
  ins : Record
  pc : Word
  id : Option Nat
  ctl : Control
  aluResult : Word
  memData : Word
  deriving DecidableEq, Repr

/-- One copy, current or next, of the four latches. -/
structure Latches where
  ifid : IfId
  idex : IdEx
  exmem : ExMem
  memwb : MemWb
  deriving DecidableEq, Repr

/-- The NOP content of IF/ID: reset and squash (R47, R293). -/
def IfId.empty : IfId := ⟨nopRecord, 0, none⟩

/-- The bubble: reset and stall content of ID/EX (R48, R292). -/
def IdEx.empty : IdEx := ⟨nopRecord, 0, none, Control.idle, 0, 0⟩

/-- The reset content of EX/MEM (R49). -/
def ExMem.empty : ExMem := ⟨nopRecord, 0, none, Control.idle, 0, 0⟩

/-- The reset content of MEM/WB (R50). -/
def MemWb.empty : MemWb := ⟨nopRecord, 0, none, Control.idle, 0, 0⟩

def Latches.empty : Latches := ⟨IfId.empty, IdEx.empty, ExMem.empty, MemWb.empty⟩

/-! ## Model outcomes (00_scope.md R22, 60_exceptions.md R383) -/

/-- What an outcome carries beside its reason: the cycle in which it arose, the address of the
instruction concerned, and its raw word, `none` where there is no word (R383). -/
structure Report where
  cycle : Nat
  addr : Word
  raw : Option Word
  deriving DecidableEq, Repr

/-- The conditions the spec leaves open and treats as a fault. The hardware itself raises no exception
(R380). -/
inductive Fault where
  /-- Raised in MEM by an out-of-range access, only under OOB_POLICY = fault (R384). Safe; log 11. -/
  | outOfRange (report : Report)
  /-- Raised in EX by DIV 0x80000000 / 0xFFFFFFFF, only where DIV_OVERFLOW is its fault (R164, R306).
  Safe; log 8. -/
  | divOverflow (report : Report)
  /-- Raised in IF by a fetch from a pc that is not a multiple of 4, where MISALIGNED_FETCH is its fault
  (R342). Safe; log 9. -/
  | misalignedFetch (report : Report)
  deriving DecidableEq, Repr

/-- The words the spec gives no meaning. -/
inductive Refusal where
  /-- Raised by `exec` for an instruction that has no meaning in this model yet. No arm does. Safe. -/
  | notModelled (mnemonic : String)
  /-- Raised in ID by a word of a recognised format that has no operation (R137, R313). Safe; log 10. -/
  | unsupported (report : Report)
  deriving DecidableEq, Repr

/-- The reason the refusal mark holds (R52). -/
inductive Mark where
  | fault (reason : Fault)
  | refused (reason : Refusal)
  deriving DecidableEq, Repr

/-! ## The PipelineLog (R53) -/

/-- The stage names. `dash` is "-", a stalled cycle in IF/ID. -/
inductive StageName where
  | IF | ID | EX | MEM | WB | dash
  deriving DecidableEq, Repr

/-- One stage name in the cell (id, cycle). -/
structure LogEntry where
  id : Nat
  cycle : Nat
  name : StageName
  deriving DecidableEq, Repr

/-! ## Construction inputs (R58, 00_scope.md R12 to R17) -/

/-- OOB_POLICY (R73, R384). The normative value is `ignore`. -/
inductive OobPolicy where
  | ignore
  | fault
  deriving DecidableEq, Repr

/-- DIV_OVERFLOW: the behaviour of DIV 0x80000000 / 0xFFFFFFFF, by the spec's treatment a fault, or a
result the host names (R16, R164). -/
inductive DivOverflow where
  | fault
  | value (result : Word)
  deriving DecidableEq, Repr

/-- MISALIGNED_FETCH: the behaviour of a fetch from a pc that is not a multiple of 4, by the spec's treatment
a fault (R16, 50_pipeline.md R342), or a read of what the host names, a word or the absence of one.
The second treatment is a DESIGN CHOICE, safe; log 9. -/
inductive MisalignedFetch where
  | fault
  | reads (word : Option Word)
  deriving DecidableEq, Repr

/-- The inputs that stay fixed for a run: PROG, FWD, T, LABELS and the three policy parameters. -/
structure Inputs where
  prog : List Word
  fwd : Bool
  totalCycles : Nat
  labels : Option (List String)
  oobPolicy : OobPolicy
  divOverflow : DivOverflow
  misalignedFetch : MisalignedFetch
  deriving DecidableEq, Repr

/-! ## The state -/

/-- The 32 register slots. Slot 0 is kept 0 and never read (R31). -/
abbrev Regs := Vector Word 32

/-- The part of an instruction's work that `exec` performs: its work in one stage of the cycle, or,
between cycles, the whole of it (the sequential reading of 50_pipeline.md R338).
The model's own; DESIGN CHOICE, safe; log 5. -/
inductive Activity where
  | whole | wb | mem | ex | id
  deriving DecidableEq, Repr

structure State where
  /-- The construction inputs (R410). -/
  input : Inputs
  /-- x0 to x31 (R30). -/
  regs : Regs
  /-- The fetch program counter (R35). -/
  pc : Word
  /-- The data memory (R45). -/
  mem : Memory
  /-- The current copies of the latches (R46). -/
  cur : Latches
  /-- The next copies of the latches (R46). -/
  nxt : Latches
  /-- The stall decision of the current cycle (R57, R312). -/
  stalled : Bool
  /-- The redirect decision of the current cycle (R57, R316). -/
  redirect : Option Word
  /-- The cycle counter (R51). -/
  cycle : Nat
  /-- The refusal mark (R52). -/
  mark : Option Mark
  /-- The PipelineLog's entries, the newest first; a cell with no entry is empty (R53). -/
  log : List LogEntry
  /-- Which part of an instruction `exec` performs. The model's own; log 5. -/
  activity : Activity
  /-- How many SD_HIGH values have been drawn. The model's own; log 7. -/
  draws : Nat
  deriving DecidableEq, Repr

/-! ## Construction and reset (R410) -/

/-- A core constructed from its inputs, INIT_REGS and INIT_MEM. x0 is forced to 0 (R34). INIT_MEM's byte
k goes to address k; bytes past MEM_SIZE are dropped and missing bytes read as the fill byte
(DESIGN CHOICE, safe; log 2). -/
def State.construct (input : Inputs) (initRegs : Regs) (initMem : List Byte) : State where
  input := input
  regs := initRegs.set 0 0
  pc := 0
  mem := Memory.writeBytes [] 0 (initMem.take Config.memSize)
  cur := Latches.empty
  nxt := Latches.empty
  stalled := false
  redirect := none
  cycle := 0
  mark := none
  log := []
  activity := .whole
  draws := 0

/-- The construction inputs of `State.reset`: an empty PROG, the spec's own treatment of the three
policies, and values the model names for FWD, T and LABELS. DESIGN CHOICE, unsafe; log 3. -/
def Inputs.default : Inputs where
  prog := []
  fwd := Config.resetForwarding
  totalCycles := Config.resetCycles
  labels := none
  oobPolicy := .ignore
  divOverflow := .fault
  misalignedFetch := .fault

/-- The core right after construction from the inputs the model names. -/
def State.reset : State :=
  State.construct Inputs.default (Vector.replicate 32 Config.resetRegister) []

end Sys2Proof.Machine
end

