-- ==== Sys2Proof/Machine/Control.lean ====
section
/-! DEFINITION. The ControlUnit: control signals as a pure function of the instruction record
(spec/30_encoding.md R120 to R131). -/

namespace Sys2Proof.Machine

/-- aluOp of an R-type record, by (funct7, funct3); NONE for an unsupported pair (R121, R122). -/
def rTypeAluOp (funct7 : BitVec 7) (funct3 : BitVec 3) : Option AluOp :=
  if funct7 = 0x00 ∧ funct3 = 0x0 then some .add
  else if funct7 = 0x20 ∧ funct3 = 0x0 then some .sub
  else if funct7 = 0x00 ∧ funct3 = 0x1 then some .sll
  else if funct7 = 0x00 ∧ funct3 = 0x5 then some .srl
  else if funct7 = 0x20 ∧ funct3 = 0x5 then some .sra
  else if funct7 = 0x01 ∧ funct3 = 0x0 then some .mul
  else if funct7 = 0x01 ∧ funct3 = 0x4 then some .div
  else none

/-- aluOp of an opcode-0x13 record: ADD but for the shifts (R123). -/
def immediateAluOp (raw : Word) (funct3 : BitVec 3) : AluOp :=
  if funct3 = 0x1 then .slli
  else if funct3 = 0x5 then (if raw.extractLsb' 30 1 = 1 then .srai else .srli)
  else .add

/-- The ControlUnit. -/
def control (q : Record) : Control :=
  match q.payload with
  | .r _ _ _ f3 f7 => ⟨true, false, false, false, rTypeAluOp f7 f3⟩
  | .i _ _ f3 _ =>
    if q.opcode = 0x13 then ⟨true, false, false, false, some (immediateAluOp q.raw f3)⟩
    else if q.opcode = 0x03 then ⟨true, true, false, false, some .add⟩
    else ⟨true, false, false, false, some .add⟩
  | .s _ _ _ _ => ⟨false, false, true, false, some .add⟩
  | .b _ _ _ _ => ⟨false, false, false, true, some .sub⟩
  | .u _ _ => ⟨true, false, false, false, none⟩
  | .j _ _ => ⟨true, false, false, false, none⟩
  | .nop => Control.idle
  | .unknown => Control.idle

end Sys2Proof.Machine
end

