-- ==== Sys2Proof/Machine/Alu.lean ====
section
/-! DEFINITION. The ALU (spec/40_alu.md R160 to R172): stateless, no flags, no overflow detection. -/

namespace Sys2Proof.Machine

/-- The quotient of two integers truncated toward zero: the natural-number quotient of the magnitudes,
negated when the signs differ (R164). -/
def quotient (a b : Int) : Int :=
  if decide (a < 0) != decide (b < 0) then -((a.natAbs / b.natAbs : Nat) : Int)
  else ((a.natAbs / b.natAbs : Nat) : Int)

/-- The one operand pair DIV leaves open (R164, DIV_OVERFLOW). -/
def divOverflows (a b : Word) : Bool := a == 0x80000000 && b == 0xFFFFFFFF

/-- DIV: 0 for a zero divisor, the signed quotient otherwise. `none` is fault(div_overflow), for the open
operand pair where DIV_OVERFLOW is a fault (R164). -/
def divide (policy : DivOverflow) (a b : Word) : Option Word :=
  if b = 0 then some 0
  else if divOverflows a b then
    match policy with
    | .fault => none
    | .value result => some result
  else some (BitVec.ofInt 32 (quotient a.toInt b.toInt))

/-- The shift amount, the low five bits of the second operand (R165, R170). -/
def shiftAmount (b : Word) : Nat := (b.extractLsb' 0 5).toNat

/-- The ALU on two operands (R161 to R168). Only DIV has an open case. -/
def alu (policy : DivOverflow) (op : AluOp) (a b : Word) : Option Word :=
  match op with
  | .add => some (a + b)
  | .sub => some (a - b)
  | .mul => some (a * b)
  | .div => divide policy a b
  | .sll => some (a <<< shiftAmount b)
  | .srl => some (a >>> shiftAmount b)
  | .sra => some (a.sshiftRight (shiftAmount b))
  | .slli => some (a <<< shiftAmount b)
  | .srli => some (a >>> shiftAmount b)
  | .srai => some (a.sshiftRight (shiftAmount b))

end Sys2Proof.Machine
end

