-- ==== Sys2Proof/Machine/Flags.lean ====
section
/-! DEFINITION. The core has no status flags and no condition codes (spec/10_state.md R54). What other
machines keep in flags is here the comparison a branch makes of its two operands
(spec/44_control_transfer.md R261 to R266). -/

namespace Sys2Proof.Machine

/-- a = b (R261). -/
def condEq (a b : Word) : Bool := a == b

/-- a ≠ b (R262). -/
def condNe (a b : Word) : Bool := a != b

/-- s(a) < s(b) (R263). -/
def condLt (a b : Word) : Bool := decide (a.toInt < b.toInt)

/-- s(a) >= s(b) (R264). -/
def condGe (a b : Word) : Bool := decide (b.toInt ≤ a.toInt)

/-- u(a) < u(b) (R265). -/
def condLtU (a b : Word) : Bool := decide (a.toNat < b.toNat)

/-- u(a) >= u(b) (R266). -/
def condGeU (a b : Word) : Bool := decide (b.toNat ≤ a.toNat)

end Sys2Proof.Machine
end

