-- ==== Sys2Proof/Machine/Ops.lean ====
section
/-! DEFINITION. The named operations over registers, memory, latches and the log. The core takes no
exception and has no return from one (spec/60_exceptions.md R380, R387, R388), so there is no such
operation: what stands in its place is the report of a model outcome (R383). -/

namespace Sys2Proof.Machine

/-! ## Outcomes -/

/-- The rest of a cycle, after a part of it that may have ended the cycle (R353). -/
def andThen (o : Host.Outcome State Fault Refusal) (f : State → Host.Outcome State Fault Refusal) :
    Host.Outcome State Fault Refusal :=
  match o with
  | .next s => f s
  | .fault r => .fault r
  | .refused r => .refused r

/-- The outcome a set mark stands for (R52, R352). -/
def Mark.outcome : Mark → Host.Outcome State Fault Refusal
  | .fault r => .fault r
  | .refused r => .refused r

/-! ## Registers (R30, R31) -/

/-- x[r]; x0 reads zero. -/
def State.readReg (s : State) (r : Reg) : Word := if r = 0#5 then 0 else s.regs[r.toNat]'r.isLt

/-- x[r] <- v; a write of x0 is dropped. -/
def State.writeReg (s : State) (r : Reg) (v : Word) : State :=
  if r = 0#5 then s else { s with regs := s.regs.set r.toNat v r.isLt }

/-- x[rd] <- v where there is a destination. -/
def State.writeDest (s : State) (rd : Option Reg) (v : Word) : State :=
  match rd with
  | none => s
  | some r => s.writeReg r v

/-! ## Program counter and decisions of the cycle -/

def State.setPc (s : State) (v : Word) : State := { s with pc := v }

def State.setStalled (s : State) (v : Bool) : State := { s with stalled := v }

def State.setRedirect (s : State) (v : Option Word) : State := { s with redirect := v }

def State.setActivity (s : State) (v : Activity) : State := { s with activity := v }

/-! ## Next latches (R46: only next copies are written during a cycle's stage logic) -/

def State.setIfid (s : State) (l : IfId) : State := { s with nxt := { s.nxt with ifid := l } }

def State.setIdex (s : State) (l : IdEx) : State := { s with nxt := { s.nxt with idex := l } }

def State.setExmem (s : State) (l : ExMem) : State := { s with nxt := { s.nxt with exmem := l } }

def State.setMemwb (s : State) (l : MemWb) : State := { s with nxt := { s.nxt with memwb := l } }

/-! ## Data memory (R71 to R74, R240 to R244, R384) -/

def State.setMem (s : State) (m : Memory) : State := { s with mem := m }

/-- The bytes a store of kind `k` writes in this state; SD draws the value of its upper four bytes. -/
def State.bytesToStore (s : State) (k : StoreKind) (d : Word) : List Byte :=
  storeBytes k d (Config.sdHigh s.draws)

/-- An SD that reaches memory uses up one draw of SD_HIGH, in range or not (log 7). -/
def State.afterDraw (s : State) (k : StoreKind) : State :=
  match k with
  | .double => { s with draws := s.draws + 1 }
  | .byte => s
  | .half => s
  | .word => s

/-- The extended value of a load at the effective address `ea`. Out of range it reads 0 (R71, R74), or
under OOB_POLICY = fault there is no value (R384). -/
def State.load (s : State) (k : LoadKind) (ea : Word) : Option Word :=
  if inRange ea.toNat k.size then some (s.mem.loadValue k ea.toNat)
  else match s.input.oobPolicy with
    | .ignore => some 0
    | .fault => none

/-- The state after a store at the effective address `ea`. Out of range no byte changes (R72, R73), or
under OOB_POLICY = fault there is no state after it (R384). -/
def State.store (s : State) (k : StoreKind) (ea d : Word) : Option State :=
  if inRange ea.toNat k.size then
    some ((s.setMem (s.mem.writeBytes ea.toNat (s.bytesToStore k d))).afterDraw k)
  else match s.input.oobPolicy with
    | .ignore => some (s.afterDraw k)
    | .fault => none

/-! ## The instruction store (R44, R341, R342) -/

/-- A pc that is a multiple of 4, the only ones the instruction store has words at (R39). -/
def aligned (pc : Word) : Bool := pc.toNat % 4 == 0

/-- A fetch from `pc` is a fault: pc is not a multiple of 4 and MISALIGNED_FETCH is its fault (R342). -/
def State.fetchFaults (s : State) (pc : Word) : Bool :=
  !aligned pc && s.input.misalignedFetch == .fault

/-- What a misaligned fetch reads where it reads anything (log 9). -/
def MisalignedFetch.word : MisalignedFetch → Option Word
  | .fault => none
  | .reads w => w

/-- The word a fetch from byte address `pc` reads: the word of PROG there, absent past its end, and for a pc
that is not a multiple of 4 what MISALIGNED_FETCH says. -/
def State.wordAt (s : State) (pc : Word) : Option Word :=
  if aligned pc then s.input.prog[pc.toNat / 4]? else s.input.misalignedFetch.word

/-! ## The PipelineLog (R53, R360 to R363) -/

/-- The stage names of the cell (id, cycle). -/
def logCell (log : List LogEntry) (id cycle : Nat) : List StageName :=
  (log.filter fun e => e.id == id && e.cycle == cycle).map LogEntry.name

/-- Add a name to a cell. "-" goes only into an empty cell, and a real name removes a "-" (R361). -/
def logAdd (log : List LogEntry) (id cycle : Nat) (name : StageName) : List LogEntry :=
  if name = .dash then
    if logCell log id cycle = [] then ⟨id, cycle, name⟩ :: log else log
  else
    ⟨id, cycle, name⟩ ::
      log.filter fun e => !(e.id == id && e.cycle == cycle && (e.name == .dash || e.name == name))

/-- Record the stage name of a latch's instruction in this cycle; a latch with no id records nothing. -/
def State.record (s : State) (id : Option Nat) (name : StageName) : State :=
  match id with
  | none => s
  | some k => { s with log := logAdd s.log k s.cycle name }

end Sys2Proof.Machine
end

