-- ==== Sys2Proof/Machine/Hazard.lean ====
section
/-! DEFINITION. Hazard detection and operand forwarding (spec/50_pipeline.md R303, R311, R330 to R337),
evaluated on the current latches. -/

namespace Sys2Proof.Machine

/-- The write-back value of a MEM/WB latch (R50, R301). -/
def MemWb.value (w : MemWb) : Word := if w.ctl.memRead then w.memData else w.aluResult

/-- A latch that holds `ins` with signals `ctl` is a producer of register `r`: regWrite is set and its
destination is `r` and not x0 (R26, R330, R334). -/
def produces (ctl : Control) (ins : Record) (r : Reg) : Bool :=
  ctl.regWrite &&
    match ins.rd with
    | none => false
    | some d => d != 0#5 && d == r

/-! ## Hazards -/

/-- Stall-mode hazard (R330). -/
def stallModeHazard (c : Latches) (ins : Record) : Bool :=
  ins.sources.any fun r =>
    r != 0#5 && (produces c.idex.ctl c.idex.ins r || produces c.exmem.ctl c.exmem.ins r)

/-- Load-use hazard of forwarding mode (R331). -/
def loadUseHazard (c : Latches) (ins : Record) : Bool :=
  ins.sources.any fun r => r != 0#5 && (c.idex.ctl.memRead && produces c.idex.ctl c.idex.ins r)

/-- B-type or JALR, the records rule R332 adds a hazard for. -/
def readsInDecode (ins : Record) : Bool := ins.opcode == 0x63 || ins.opcode == 0x67

/-- Branch and JALR hazard of forwarding mode (R332): any producer in ID/EX, or a load in EX/MEM. -/
def transferHazard (c : Latches) (ins : Record) : Bool :=
  readsInDecode ins && ins.sources.any fun r =>
    r != 0#5 && (produces c.idex.ctl c.idex.ins r ||
      (c.exmem.ctl.memRead && produces c.exmem.ctl c.exmem.ins r))

/-- The stall decision for the instruction in IF/ID (R311). -/
def hazard (fwd : Bool) (c : Latches) (ins : Record) : Bool :=
  if fwd then loadUseHazard c ins || transferHazard c ins else stallModeHazard c ins

/-! ## Forwarding -/

/-- The forwarding mux: EX/MEM first, but not a load there, then MEM/WB (R333, R334). -/
def forward (c : Latches) (r : Reg) (v : Word) : Word :=
  if r = 0#5 then 0
  else if produces c.exmem.ctl c.exmem.ins r && !c.exmem.ctl.memRead then c.exmem.aluResult
  else if produces c.memwb.ctl c.memwb.ins r then c.memwb.value
  else v

/-- The mux where FWD = true, the value itself where FWD = false. -/
def State.bypass (s : State) (r : Reg) (v : Word) : Word :=
  if s.input.fwd then forward s.cur r v else v

/-- The value a store writes: EX/MEM's storeData, or MEM/WB's value where FWD = true and MEM/WB holds a
producer of the store's rs2 (R303). -/
def State.storeValue (s : State) : Word :=
  match s.cur.exmem.ins.rs2 with
  | none => s.cur.exmem.storeData
  | some r =>
    if s.input.fwd && produces s.cur.memwb.ctl s.cur.memwb.ins r then s.cur.memwb.value
    else s.cur.exmem.storeData

end Sys2Proof.Machine
end

