-- ==== Sys2Proof/Machine/Operands.lean ====
section
/-! DEFINITION. Operand forms: what an instruction reads, computes, accesses, writes and jumps to, and how
its source registers are read in ID and in EX (spec/50_pipeline.md R304, R305, R314). -/

namespace Sys2Proof.Machine

/-! ## Reading source registers -/

/-- A source operand as ID reads it: the register file after this cycle's WB, then the mux; 0 where the
instruction has no such source (R314, R335). -/
def State.operandInId (s : State) (r : Option Reg) : Word :=
  match r with
  | none => 0
  | some r => s.bypass r (s.readReg r)

/-- A source operand as EX uses it: the value ID read, then the mux (R304, R336). -/
def State.operandInEx (s : State) (r : Option Reg) (v : Word) : Word :=
  match r with
  | none => v
  | some r => s.bypass r v

/-- A source operand of the sequential reading: the register file (R338). -/
def State.operand (s : State) (r : Option Reg) : Word :=
  match r with
  | none => 0
  | some r => s.readReg r

/-! ## What an instruction does -/

/-- The work of one instruction, given once and used by every stage that has a part in it. -/
structure Work where
  /-- the first source register (R114) -/
  rs1 : Option Reg
  /-- the second source register (R114) -/
  rs2 : Option Reg
  /-- the destination register (R115) -/
  rd : Option Reg
  /-- the EX result, from the instruction's own address and its operands; `none` is
  fault(div_overflow) (R305, R306) -/
  result : DivOverflow → Word → Word → Word → Option Word
  /-- the load it makes at the EX result (R230) -/
  load : Option LoadKind
  /-- the store it makes at the EX result (R240) -/
  store : Option StoreKind
  /-- the redirect it makes in ID, from its own address and its operands (R316) -/
  target : Word → Word → Word → Option Word

/-- `op rd, rs1, rs2`: the ALU on two registers (R180 to R186). -/
def Work.registers (op : AluOp) (rd rs1 rs2 : Reg) : Work where
  rs1 := some rs1
  rs2 := some rs2
  rd := some rd
  result := fun policy _ a b => alu policy op a b
  load := none
  store := none
  target := fun _ _ _ => none

/-- `op rd, rs1, imm`: the ALU on a register and an immediate (R200 to R208). -/
def Work.immediate (op : AluOp) (rd rs1 : Reg) (imm : Word) : Work where
  rs1 := some rs1
  rs2 := none
  rd := some rd
  result := fun policy _ a _ => alu policy op a imm
  load := none
  store := none
  target := fun _ _ _ => none

/-- `op rd, imm`: a value of the instruction's own address (R210, R211). -/
def Work.upper (rd : Reg) (value : Word → Word) : Work where
  rs1 := none
  rs2 := none
  rd := some rd
  result := fun _ ipc _ _ => some (value ipc)
  load := none
  store := none
  target := fun _ _ _ => none

/-- `op rd, imm(rs1)`: base plus offset, with no update of the base (R230). -/
def Work.loading (kind : LoadKind) (rd rs1 : Reg) (imm : Word) : Work where
  rs1 := some rs1
  rs2 := none
  rd := some rd
  result := fun policy _ a _ => alu policy .add a imm
  load := some kind
  store := none
  target := fun _ _ _ => none

/-- `op rs2, imm(rs1)`: base plus offset, with no update of the base (R240). -/
def Work.storing (kind : StoreKind) (rs1 rs2 : Reg) (imm : Word) : Work where
  rs1 := some rs1
  rs2 := some rs2
  rd := none
  result := fun policy _ a _ => alu policy .add a imm
  load := none
  store := some kind
  target := fun _ _ _ => none

/-- `op rs1, rs2, offset`: a branch redirects taken or not (R260). Its EX result is the ALU's SUB, which
nothing reads (R271). -/
def Work.branching (cond : Word → Word → Bool) (rs1 rs2 : Reg) (imm : Word) : Work where
  rs1 := some rs1
  rs2 := some rs2
  rd := none
  result := fun policy _ a b => alu policy .sub a b
  load := none
  store := none
  target := fun ipc a b => some (if cond a b then ipc + imm else ipc + 4)

/-- A jump: the link is the EX result (R267, R268). -/
def Work.jumping (rd : Reg) (rs1 : Option Reg) (target : Word → Word → Word) : Work where
  rs1 := rs1
  rs2 := none
  rd := some rd
  result := fun _ ipc _ _ => some (ipc + 4)
  load := none
  store := none
  target := fun ipc a _ => some (target ipc a)

/-- Nothing: NOP and UNKNOWN, whose EX result is 0 (R290, R291, R305). -/
def Work.inert : Work where
  rs1 := none
  rs2 := none
  rd := none
  result := fun _ _ _ _ => some 0
  load := none
  store := none
  target := fun _ _ _ => none

end Sys2Proof.Machine
end

