-- ==== Sys2Proof/Machine/Perform.lean ====
section
/-! DEFINITION. How an instruction's work is done: its part in each of the stages WB, MEM, EX and ID
(spec/50_pipeline.md R301 to R306, R314 to R316), and the whole of it at once, the sequential reading of
R338. Every instruction's meaning is `perform` of its work. -/

namespace Sys2Proof.Machine

/-- Data access in MEM: the load's value (0 where the instruction is no load) and the state after the
store. `none` is fault(out_of_range). -/
def State.access (s : State) (load : Option LoadKind) (store : Option StoreKind) (ea d : Word) :
    Option (Word × State) :=
  match load with
  | some k => (s.load k ea).map fun v => (v, s)
  | none =>
    match store with
    | some k => (s.store k ea d).map fun t => (0, t)
    | none => some (0, s)

/-- WB: write the MEM/WB latch's value to the destination (R301). -/
def writeBack (w : Work) (s : State) : Host.Outcome State Fault Refusal :=
  if s.cur.memwb.ctl.regWrite then .next (s.writeDest w.rd s.cur.memwb.value) else .next s

/-- The data access of MEM, as far as the EX/MEM latch's signals ask for one (R302). -/
def accessInMem (w : Work) (s : State) : Option (Word × State) :=
  s.access (if s.cur.exmem.ctl.memRead then w.load else none)
    (if s.cur.exmem.ctl.memWrite then w.store else none) s.cur.exmem.aluResult s.storeValue

/-- MEM: make the load or the store, and fill MEM/WB (R302, R303, R384). -/
def memoryAccess (w : Work) (s : State) : Host.Outcome State Fault Refusal :=
  match accessInMem w s with
  | none => .fault (.outOfRange ⟨s.cycle, s.cur.exmem.pc, some s.cur.exmem.ins.raw⟩)
  | some (v, t) =>
    .next (t.setMemwb ⟨s.cur.exmem.ins, s.cur.exmem.pc, s.cur.exmem.id, s.cur.exmem.ctl,
      s.cur.exmem.aluResult, v⟩)

/-- The EX result from the operands after forwarding (R304, R305). -/
def resultInEx (w : Work) (s : State) : Option Word :=
  w.result s.input.divOverflow s.cur.idex.pc (s.operandInEx w.rs1 s.cur.idex.a)
    (s.operandInEx w.rs2 s.cur.idex.b)

/-- EX: compute the result and fill EX/MEM (R304 to R306). -/
def execute (w : Work) (s : State) : Host.Outcome State Fault Refusal :=
  match resultInEx w s with
  | none => .fault (.divOverflow ⟨s.cycle, s.cur.idex.pc, some s.cur.idex.ins.raw⟩)
  | some r =>
    .next (s.setExmem ⟨s.cur.idex.ins, s.cur.idex.pc, s.cur.idex.id, s.cur.idex.ctl, r,
      s.operandInEx w.rs2 s.cur.idex.b⟩)

/-- ID, for an instruction that is not stalled: read the operands, fill ID/EX, resolve (R314 to R316). -/
def accept (w : Work) (s : State) : Host.Outcome State Fault Refusal :=
  .next ((s.setIdex ⟨s.cur.ifid.ins, s.cur.ifid.pc, s.cur.ifid.id, control s.cur.ifid.ins,
      s.operandInId w.rs1, s.operandInId w.rs2⟩).setRedirect
    (w.target s.cur.ifid.pc (s.operandInId w.rs1) (s.operandInId w.rs2)))

/-- The result of the instruction at pc, of the sequential reading (R338). -/
def resultWhole (w : Work) (s : State) : Option Word :=
  w.result s.input.divOverflow s.pc (s.operand w.rs1) (s.operand w.rs2)

/-- The pc after the instruction at pc: the redirect target, or pc + 4 (R338). -/
def pcAfter (w : Work) (s : State) : Word :=
  (w.target s.pc (s.operand w.rs1) (s.operand w.rs2)).getD (s.pc + 4)

/-- The whole instruction at pc: read its sources, compute, access memory, write rd, then set pc to the
redirect target or pc + 4 (R338). An outcome carries pc and the word there. -/
def performWhole (w : Work) (s : State) : Host.Outcome State Fault Refusal :=
  match resultWhole w s with
  | none => .fault (.divOverflow ⟨s.cycle, s.pc, s.wordAt s.pc⟩)
  | some r =>
    match s.access w.load w.store r (s.operand w.rs2) with
    | none => .fault (.outOfRange ⟨s.cycle, s.pc, s.wordAt s.pc⟩)
    | some (v, t) =>
      .next ((t.writeDest w.rd (if w.load.isSome then v else r)).setPc (pcAfter w s))

/-- Do the part of the work that the state's activity names (log 5). -/
def perform (w : Work) (s : State) : Host.Outcome State Fault Refusal :=
  match s.activity with
  | .whole => performWhole w s
  | .wb => writeBack w s
  | .mem => memoryAccess w s
  | .ex => execute w s
  | .id => accept w s

end Sys2Proof.Machine
end

