-- ==== Sys2Proof/Machine/ControlTransfer.lean ====
section
/-! DEFINITION. Branches and jumps (spec/44_control_transfer.md R260 to R268). -/

namespace Sys2Proof.Machine

/-- BEQ: if a = b redirect to ipc + imm, else to ipc + 4 (R261, R260). -/
def execBeq (rs1 rs2 : Reg) (imm : Word) (s : State) : Host.Outcome State Fault Refusal :=
  perform (Work.branching condEq rs1 rs2 imm) s

/-- BNE: if a ≠ b redirect to ipc + imm, else to ipc + 4 (R262, R260). -/
def execBne (rs1 rs2 : Reg) (imm : Word) (s : State) : Host.Outcome State Fault Refusal :=
  perform (Work.branching condNe rs1 rs2 imm) s

/-- BLT: if s(a) < s(b) redirect to ipc + imm, else to ipc + 4 (R263, R260). -/
def execBlt (rs1 rs2 : Reg) (imm : Word) (s : State) : Host.Outcome State Fault Refusal :=
  perform (Work.branching condLt rs1 rs2 imm) s

/-- BGE: if s(a) >= s(b) redirect to ipc + imm, else to ipc + 4 (R264, R260). -/
def execBge (rs1 rs2 : Reg) (imm : Word) (s : State) : Host.Outcome State Fault Refusal :=
  perform (Work.branching condGe rs1 rs2 imm) s

/-- BLTU: if u(a) < u(b) redirect to ipc + imm, else to ipc + 4 (R265, R260). -/
def execBltu (rs1 rs2 : Reg) (imm : Word) (s : State) : Host.Outcome State Fault Refusal :=
  perform (Work.branching condLtU rs1 rs2 imm) s

/-- BGEU: if u(a) >= u(b) redirect to ipc + imm, else to ipc + 4 (R266, R260). -/
def execBgeu (rs1 rs2 : Reg) (imm : Word) (s : State) : Host.Outcome State Fault Refusal :=
  perform (Work.branching condGeU rs1 rs2 imm) s

/-- JAL: redirect to ipc + imm; x[rd] <- ipc + 4 (R267). -/
def execJal (rd : Reg) (imm : Word) (s : State) : Host.Outcome State Fault Refusal :=
  perform (Work.jumping rd none fun ipc _ => ipc + imm) s

/-- JALR: redirect to (a + imm) with bit 0 cleared; x[rd] <- ipc + 4 (R268). -/
def execJalr (rd rs1 : Reg) (imm : Word) (s : State) : Host.Outcome State Fault Refusal :=
  perform (Work.jumping rd (some rs1) fun _ a => (a + imm) &&& 0xFFFFFFFE) s

end Sys2Proof.Machine
end

