-- ==== Sys2Proof/Machine/ImmediateArith.lean ====
section
/-! DEFINITION. Register-immediate arithmetic and upper immediates (spec/42_immediate_arith.md R200 to R211). -/

namespace Sys2Proof.Machine

/-- ADDI: x[rd] <- alu(ADD, a, imm) (R200). -/
def execAddi (rd rs1 : Reg) (imm : Word) (s : State) : Host.Outcome State Fault Refusal :=
  perform (Work.immediate .add rd rs1 imm) s

/-- The SLTI encoding: x[rd] <- alu(ADD, a, imm), no comparison (R201, C7). -/
def execSlti (rd rs1 : Reg) (imm : Word) (s : State) : Host.Outcome State Fault Refusal :=
  perform (Work.immediate .add rd rs1 imm) s

/-- The SLTIU encoding: x[rd] <- alu(ADD, a, imm), no comparison (R202, C7). -/
def execSltiu (rd rs1 : Reg) (imm : Word) (s : State) : Host.Outcome State Fault Refusal :=
  perform (Work.immediate .add rd rs1 imm) s

/-- The XORI encoding: x[rd] <- alu(ADD, a, imm) (R203, C7). -/
def execXori (rd rs1 : Reg) (imm : Word) (s : State) : Host.Outcome State Fault Refusal :=
  perform (Work.immediate .add rd rs1 imm) s

/-- The ORI encoding: x[rd] <- alu(ADD, a, imm) (R204, C7). -/
def execOri (rd rs1 : Reg) (imm : Word) (s : State) : Host.Outcome State Fault Refusal :=
  perform (Work.immediate .add rd rs1 imm) s

/-- The ANDI encoding: x[rd] <- alu(ADD, a, imm) (R205, C7). -/
def execAndi (rd rs1 : Reg) (imm : Word) (s : State) : Host.Outcome State Fault Refusal :=
  perform (Work.immediate .add rd rs1 imm) s

/-- SLLI: x[rd] <- alu(SLLI, a, imm), of which only imm[4:0] counts (R206, R168). -/
def execSlli (rd rs1 : Reg) (shamt : BitVec 5) (s : State) : Host.Outcome State Fault Refusal :=
  perform (Work.immediate .slli rd rs1 (shamt.setWidth 32)) s

/-- SRLI: x[rd] <- alu(SRLI, a, imm), of which only imm[4:0] counts (R207, R168). -/
def execSrli (rd rs1 : Reg) (shamt : BitVec 5) (s : State) : Host.Outcome State Fault Refusal :=
  perform (Work.immediate .srli rd rs1 (shamt.setWidth 32)) s

/-- SRAI: x[rd] <- alu(SRAI, a, imm), of which only imm[4:0] counts (R208, R168). -/
def execSrai (rd rs1 : Reg) (shamt : BitVec 5) (s : State) : Host.Outcome State Fault Refusal :=
  perform (Work.immediate .srai rd rs1 (shamt.setWidth 32)) s

/-- LUI: x[rd] <- imm (R210). -/
def execLui (rd : Reg) (imm : Word) (s : State) : Host.Outcome State Fault Refusal :=
  perform (Work.upper rd fun _ => imm) s

/-- AUIPC: x[rd] <- ipc + imm, from the instruction's own address (R211). -/
def execAuipc (rd : Reg) (imm : Word) (s : State) : Host.Outcome State Fault Refusal :=
  perform (Work.upper rd fun ipc => ipc + imm) s

end Sys2Proof.Machine
end

