-- ==== Sys2Proof/Machine/Inert.lean ====
section
/-! DEFINITION. The two inert decode outcomes (spec/45_nop_unknown.md R290, R291). -/

namespace Sys2Proof.Machine

/-- NOP: nothing (R290). -/
def execNop (s : State) : Host.Outcome State Fault Refusal :=
  perform Work.inert s

/-- UNKNOWN: nothing (R291); ECALL, EBREAK, FENCE, CSR instructions, MRET, WFI and atomics among them. -/
def execUnknown (s : State) : Host.Outcome State Fault Refusal :=
  perform Work.inert s

end Sys2Proof.Machine
end

