-- ==== Sys2Proof/Machine/LoadStore.lean ====
section
/-! DEFINITION. Loads and stores (spec/43_loads_stores.md R230 to R244). -/

namespace Sys2Proof.Machine

/-- LB: x[rd] <- sext_32(MemRead(a + imm, 1)) (R231). -/
def execLb (rd rs1 : Reg) (imm : Word) (s : State) : Host.Outcome State Fault Refusal :=
  perform (Work.loading .byte rd rs1 imm) s

/-- LH: x[rd] <- sext_32(MemRead(a + imm, 2)) (R232). -/
def execLh (rd rs1 : Reg) (imm : Word) (s : State) : Host.Outcome State Fault Refusal :=
  perform (Work.loading .half rd rs1 imm) s

/-- LW: x[rd] <- MemRead(a + imm, 4) (R233). -/
def execLw (rd rs1 : Reg) (imm : Word) (s : State) : Host.Outcome State Fault Refusal :=
  perform (Work.loading .word rd rs1 imm) s

/-- LBU: x[rd] <- zext_32(MemRead(a + imm, 1)) (R234). -/
def execLbu (rd rs1 : Reg) (imm : Word) (s : State) : Host.Outcome State Fault Refusal :=
  perform (Work.loading .byteU rd rs1 imm) s

/-- LHU: x[rd] <- zext_32(MemRead(a + imm, 2)) (R235). -/
def execLhu (rd rs1 : Reg) (imm : Word) (s : State) : Host.Outcome State Fault Refusal :=
  perform (Work.loading .halfU rd rs1 imm) s

/-- SB: MemWrite(a + imm, 1, d[7:0]) (R241). -/
def execSb (rs1 rs2 : Reg) (imm : Word) (s : State) : Host.Outcome State Fault Refusal :=
  perform (Work.storing .byte rs1 rs2 imm) s

/-- SH: MemWrite(a + imm, 2, d[15:0]) (R242). -/
def execSh (rs1 rs2 : Reg) (imm : Word) (s : State) : Host.Outcome State Fault Refusal :=
  perform (Work.storing .half rs1 rs2 imm) s

/-- SW: MemWrite(a + imm, 4, d) (R243). -/
def execSw (rs1 rs2 : Reg) (imm : Word) (s : State) : Host.Outcome State Fault Refusal :=
  perform (Work.storing .word rs1 rs2 imm) s

/-- SD: MemWrite(a + imm, 8, SD_HIGH ‖ d), SD_HIGH a fresh draw (R244). -/
def execSd (rs1 rs2 : Reg) (imm : Word) (s : State) : Host.Outcome State Fault Refusal :=
  perform (Work.storing .double rs1 rs2 imm) s

end Sys2Proof.Machine
end

