-- ==== Sys2Proof/Machine/RegisterArith.lean ====
section
/-! DEFINITION. Register-register arithmetic (spec/41_register_arith.md R180 to R186). -/

namespace Sys2Proof.Machine

/-- ADD: x[rd] <- alu(ADD, a, b) (R180). -/
def execAdd (rd rs1 rs2 : Reg) (s : State) : Host.Outcome State Fault Refusal :=
  perform (Work.registers .add rd rs1 rs2) s

/-- SUB: x[rd] <- alu(SUB, a, b) (R181). -/
def execSub (rd rs1 rs2 : Reg) (s : State) : Host.Outcome State Fault Refusal :=
  perform (Work.registers .sub rd rs1 rs2) s

/-- SLL: x[rd] <- alu(SLL, a, b) (R182). -/
def execSll (rd rs1 rs2 : Reg) (s : State) : Host.Outcome State Fault Refusal :=
  perform (Work.registers .sll rd rs1 rs2) s

/-- SRL: x[rd] <- alu(SRL, a, b) (R183). -/
def execSrl (rd rs1 rs2 : Reg) (s : State) : Host.Outcome State Fault Refusal :=
  perform (Work.registers .srl rd rs1 rs2) s

/-- SRA: x[rd] <- alu(SRA, a, b) (R184). -/
def execSra (rd rs1 rs2 : Reg) (s : State) : Host.Outcome State Fault Refusal :=
  perform (Work.registers .sra rd rs1 rs2) s

/-- MUL: x[rd] <- alu(MUL, a, b) (R185). -/
def execMul (rd rs1 rs2 : Reg) (s : State) : Host.Outcome State Fault Refusal :=
  perform (Work.registers .mul rd rs1 rs2) s

/-- DIV: x[rd] <- alu(DIV, a, b) (R186). The operand pair DIV_OVERFLOW leaves open
faults, or gives the host's value (R164, log 8). -/
def execDiv (rd rs1 rs2 : Reg) (s : State) : Host.Outcome State Fault Refusal :=
  perform (Work.registers .div rd rs1 rs2) s

end Sys2Proof.Machine
end

