-- ==== Sys2Proof/Machine/Pipeline.lean ====
section
/-! DEFINITION. The PipelineEngine: the five stages of a cycle, each running the instruction its latch
holds, and the commit (spec/50_pipeline.md R300 to R353, R360). -/

namespace Sys2Proof.Machine

/-- Run the instruction a record stands for, in one stage. A record that stands for none is
refused: in ID this is R313, and behind ID there is never such a record (log 15). -/
def runIn (activity : Activity) (ins : Record) (pc : Word) (s : State) : Host.Outcome State Fault Refusal :=
  match ins.instr with
  | .ok i => exec i (s.setActivity activity)
  | .error _ => .refused (.unsupported ⟨s.cycle, pc, some ins.raw⟩)

/-- WB (R301, R360). -/
def wbStage (s : State) : Host.Outcome State Fault Refusal :=
  runIn .wb s.cur.memwb.ins s.cur.memwb.pc (s.record s.cur.memwb.id .WB)

/-- MEM (R302, R360). -/
def memStage (s : State) : Host.Outcome State Fault Refusal :=
  runIn .mem s.cur.exmem.ins s.cur.exmem.pc (s.record s.cur.exmem.id .MEM)

/-- EX (R304 to R306, R360). -/
def exStage (s : State) : Host.Outcome State Fault Refusal :=
  runIn .ex s.cur.idex.ins s.cur.idex.pc (s.record s.cur.idex.id .EX)

/-- What a stall does in ID: a bubble into ID/EX, "-" in the log, no redirect (R312). -/
def stallInId (s : State) : State :=
  ((s.setIdex IdEx.empty).setRedirect none).setStalled true |>.record s.cur.ifid.id .dash

/-- ID: stall, or accept the instruction in IF/ID, which is refused if it is unsupported
(R310 to R317). -/
def idStage (s : State) : Host.Outcome State Fault Refusal :=
  if hazard s.input.fwd s.cur s.cur.ifid.ins then .next (stallInId s)
  else runIn .id s.cur.ifid.ins s.cur.ifid.pc ((s.setStalled false).record s.cur.ifid.id .ID)

/-- The sequence id of the word fetched from `pc`: its index in PROG, none for a NOP (R340, R341) and for
what a misaligned fetch reads, which is no word of PROG (R27). -/
def fetchId (ins : Record) (pc : Word) : Option Nat :=
  if aligned pc && ins.payload != .nop then some (pc.toNat / 4) else none

/-- The IF/ID content a fetch from pc gives: the decoded word, or the NOP of an absent word (R340, R341). -/
def fetched (s : State) : IfId :=
  ⟨decodeFetched (s.wordAt s.pc), s.pc, fetchId (decodeFetched (s.wordAt s.pc)) s.pc⟩

/-- The fetch of the word at pc into IF/ID (R340 to R342). -/
def fetch (s : State) : Host.Outcome State Fault Refusal :=
  if s.fetchFaults s.pc then .fault (.misalignedFetch ⟨s.cycle, s.pc, none⟩)
  else .next ((s.setIfid (fetched s)).record (fetched s).id .IF)

/-- What IF does when it does not fetch: hold IF/ID on a stall, squash it on a redirect (R340, R343). -/
def holdOrSquash (s : State) : State :=
  if s.stalled then s.setIfid s.cur.ifid else s.setIfid IfId.empty

/-- IF, after ID (R340). -/
def ifStage (s : State) : Host.Outcome State Fault Refusal :=
  if s.stalled ∨ s.redirect.isSome then .next (holdOrSquash s) else fetch s

/-- The pc after the cycle's decisions (R350). -/
def nextPc (stalled : Bool) (redirect : Option Word) (pc : Word) : Word :=
  match redirect with
  | some t => t
  | none => if stalled then pc else pc + 4

/-- Commit: next latches become current, pc moves, the counter counts (R350, R351). The cycle's decisions
end with it, and `exec` is left at the whole instruction (log 5, 14). -/
def commit (s : State) : State :=
  { s with
    cur := s.nxt
    pc := nextPc s.stalled s.redirect s.pc
    stalled := false
    redirect := none
    cycle := s.cycle + 1
    activity := .whole }

/-- One clock cycle (R300, R352). A stage that ends in an outcome abandons it whole (R353). -/
def oneCycle (s : State) : Host.Outcome State Fault Refusal :=
  andThen (wbStage s) fun s1 =>
  andThen (memStage s1) fun s2 =>
  andThen (exStage s2) fun s3 =>
  andThen (idStage s3) fun s4 =>
  andThen (ifStage s4) fun s5 => .next (commit s5)

/-- The instruction store with the word at index `k` replaced, padded with zero words where it is
shorter. -/
def placeWord : List Word → Nat → Word → List Word
  | [], 0, w => [w]
  | [], k + 1, w => 0 :: placeWord [] k w
  | _ :: rest, 0, w => w :: rest
  | v :: rest, k + 1, w => v :: placeWord rest k w

end Sys2Proof.Machine
end

