-- ==== Sys2Proof/Machine/Step.lean ====
section
/-! DEFINITION. One step of the machine is one clock cycle, one call of runCycle
(spec/10_state.md R59, 50_pipeline.md R352). -/

namespace Sys2Proof.Machine

/-- One cycle, or the outcome of the mark once it is set (R52). -/
def step (s : State) : Host.Outcome State Fault Refusal :=
  match s.mark with
  | some m => m.outcome
  | none => oneCycle s

/-- The word in PROG at pc, with the pipeline drained, the mark clear and pc a multiple of 4. -/
def State.placeAtPc (s : State) (w : Word) : State :=
  { s with
    pc := s.pc &&& 0xFFFFFFFC
    mark := none
    cur := Latches.empty
    nxt := Latches.empty
    input := { s.input with
      prog := placeWord s.input.prog ((s.pc &&& 0xFFFFFFFC).toNat / 4) w } }

/-! One cycle runs an instruction in one stage, so a step that runs all of it needs it in every stage. The
latches are filled from the front, each with what the stage before it makes of the word. -/

/-- Take over one latch from what a stage made; a stage that ends in an outcome makes none. -/
def State.takeFrom (s : State) (o : Host.Outcome State Fault Refusal) (f : Latches → Latches → Latches) :
    State :=
  match o with
  | .next t => { s with cur := f s.cur t.nxt }
  | .fault _ => s
  | .refused _ => s

/-- IF/ID holds the word at pc. -/
def State.fillIfid (s : State) : State := { s with cur := { s.cur with ifid := fetched s } }

/-- ID/EX holds what ID makes of it. -/
def State.fillIdex (s : State) : State := s.takeFrom (idStage s) fun c n => { c with idex := n.idex }

/-- EX/MEM holds what EX makes of that. -/
def State.fillExmem (s : State) : State := s.takeFrom (exStage s) fun c n => { c with exmem := n.exmem }

/-- MEM/WB holds what MEM makes of that; memory itself is not touched. -/
def State.fillMemwb (s : State) : State := s.takeFrom (memStage s) fun c n => { c with memwb := n.memwb }

/-- IF/ID holds a NOP where its instruction would wait for itself. -/
def State.clearHazard (s : State) : State :=
  if hazard s.input.fwd s.cur s.cur.ifid.ins then { s with cur := { s.cur with ifid := IfId.empty } } else s

/-- Between cycles the next latches equal the current ones. -/
def State.settle (s : State) : State := { s with nxt := s.cur }

/-- The state whose very next step fetches the instruction and runs it: it stands in PROG at pc and in every
latch, so that the step does its work in WB, MEM, EX and ID and, unless it redirects, fetches it (log 4). -/
def State.withFetchWord (s : State) (nbits w : Nat) : State :=
  ((s.placeAtPc (BitVec.ofNat 32 (w % 2 ^ nbits))).fillIfid.fillIdex.fillExmem.fillMemwb).clearHazard.settle

end Sys2Proof.Machine
end

