-- ==== Sys2Proof/Machine/Trace.lean ====
section
/-! DEFINITION. A run of T cycles with its sticky mark, and the ports the host reads
(spec/10_state.md R52, R59 to R63; 50_pipeline.md R352, R363). -/

namespace Sys2Proof.Machine

/-- runCycle as the host sees it: the state after the cycle, or the pre-cycle state with the mark set
(R352, R353). -/
def runCycle (s : State) : State :=
  match step s with
  | .next t => t
  | .fault r => { s with mark := some (.fault r) }
  | .refused r => { s with mark := some (.refused r) }

def runCycles : Nat → State → State
  | 0, s => s
  | k + 1, s => runCycles k (runCycle s)

/-- A run: exactly T cycles from construction (R14, R60). -/
def run (s : State) : State := runCycles s.input.totalCycles s

/-- Register inspection port (R61). -/
def inspectReg (s : State) (r : Reg) : Word := s.readReg r

/-- Data memory inspection port: the MEM_SIZE bytes (R61, R63). -/
def inspectMem (s : State) : List Byte := (List.range Config.memSize).map s.mem.read

/-- The label of a row where LABELS gives one; the format of a generated id is outside the core
(R17, R62). -/
def rowLabel (s : State) (id : Nat) : Option String :=
  match s.input.labels with
  | none => none
  | some labels => labels[id]?

/-- A row of the trace: one cell for each of the T cycles (R62, R363). -/
def traceRow (s : State) (id : Nat) : List (List StageName) :=
  (List.range s.input.totalCycles).map (logCell s.log id)

/-- The trace port: one labelled row for each word of PROG (R62). -/
def traceTable (s : State) : List (Option String × List (List StageName)) :=
  (List.range s.input.prog.length).map fun id => (rowLabel s id, traceRow s id)

end Sys2Proof.Machine
end

