-- ==== Sys2Proof/Safety.lean ====
section
/-! DEFINITION. The terms claims use: what an instruction names, the spec's own tables restated over
records, the invariant of the core between cycles, the sequential reading of PROG, and the draining of the
pipeline that links a cycle to it. -/

namespace Sys2Proof

/-! ## What an instruction names -/

/-- The destination register (30_encoding.md R115). -/
def Instr.dest : Instr → Option Reg
  | .add rd _ _ | .sub rd _ _ | .sll rd _ _ | .srl rd _ _ | .sra rd _ _ | .mul rd _ _ | .div rd _ _
  | .addi rd _ _ | .slti rd _ _ | .sltiu rd _ _ | .xori rd _ _ | .ori rd _ _ | .andi rd _ _
  | .slli rd _ _ | .srli rd _ _ | .srai rd _ _ | .lui rd _ | .auipc rd _
  | .lb rd _ _ | .lh rd _ _ | .lw rd _ _ | .lbu rd _ _ | .lhu rd _ _ | .jal rd _ | .jalr rd _ _ => some rd
  | .sb _ _ _ | .sh _ _ _ | .sw _ _ _ | .sd _ _ _
  | .beq _ _ _ | .bne _ _ _ | .blt _ _ _ | .bge _ _ _ | .bltu _ _ _ | .bgeu _ _ _
  | .nop | .unknown => none

/-- The width of the store an instruction makes (43_loads_stores.md R241 to R244). -/
def Instr.storeKind : Instr → Option Machine.StoreKind
  | .sb _ _ _ => some .byte
  | .sh _ _ _ => some .half
  | .sw _ _ _ => some .word
  | .sd _ _ _ => some .double
  | .add _ _ _ | .sub _ _ _ | .sll _ _ _ | .srl _ _ _ | .sra _ _ _ | .mul _ _ _ | .div _ _ _
  | .addi _ _ _ | .slti _ _ _ | .sltiu _ _ _ | .xori _ _ _ | .ori _ _ _ | .andi _ _ _
  | .slli _ _ _ | .srli _ _ _ | .srai _ _ _ | .lui _ _ | .auipc _ _
  | .lb _ _ _ | .lh _ _ _ | .lw _ _ _ | .lbu _ _ _ | .lhu _ _ _ | .jal _ _ | .jalr _ _ _
  | .beq _ _ _ | .bne _ _ _ | .blt _ _ _ | .bge _ _ _ | .bltu _ _ _ | .bgeu _ _ _
  | .nop | .unknown => none

/-- The width and signedness of the load an instruction makes (R231 to R235). -/
def Instr.loadKind : Instr → Option Machine.LoadKind
  | .lb _ _ _ => some .byte
  | .lh _ _ _ => some .half
  | .lw _ _ _ => some .word
  | .lbu _ _ _ => some .byteU
  | .lhu _ _ _ => some .halfU
  | .add _ _ _ | .sub _ _ _ | .sll _ _ _ | .srl _ _ _ | .sra _ _ _ | .mul _ _ _ | .div _ _ _
  | .addi _ _ _ | .slti _ _ _ | .sltiu _ _ _ | .xori _ _ _ | .ori _ _ _ | .andi _ _ _
  | .slli _ _ _ | .srli _ _ _ | .srai _ _ _ | .lui _ _ | .auipc _ _
  | .sb _ _ _ | .sh _ _ _ | .sw _ _ _ | .sd _ _ _ | .jal _ _ | .jalr _ _ _
  | .beq _ _ _ | .bne _ _ _ | .blt _ _ _ | .bge _ _ _ | .bltu _ _ _ | .bgeu _ _ _
  | .nop | .unknown => none

/-- The source registers, fixed by the format (R114): R, S and B have rs1 and rs2, I has rs1. -/
def Instr.sources : Instr → List Reg
  | .add _ rs1 rs2 | .sub _ rs1 rs2 | .sll _ rs1 rs2 | .srl _ rs1 rs2 | .sra _ rs1 rs2
  | .mul _ rs1 rs2 | .div _ rs1 rs2 => [rs1, rs2]
  | .addi _ rs1 _ | .slti _ rs1 _ | .sltiu _ rs1 _ | .xori _ rs1 _ | .ori _ rs1 _ | .andi _ rs1 _
  | .slli _ rs1 _ | .srli _ rs1 _ | .srai _ rs1 _
  | .lb _ rs1 _ | .lh _ rs1 _ | .lw _ rs1 _ | .lbu _ rs1 _ | .lhu _ rs1 _ | .jalr _ rs1 _ => [rs1]
  | .sb rs1 rs2 _ | .sh rs1 rs2 _ | .sw rs1 rs2 _ | .sd rs1 rs2 _
  | .beq rs1 rs2 _ | .bne rs1 rs2 _ | .blt rs1 rs2 _ | .bge rs1 rs2 _ | .bltu rs1 rs2 _
  | .bgeu rs1 rs2 _ => [rs1, rs2]
  | .lui _ _ | .auipc _ _ | .jal _ _ | .nop | .unknown => []

/-- The bits of a word that the decoder does not examine (30_encoding.md R138). -/
def Instr.ignoredBits : Instr → Word
  | .jalr _ _ _ => 0x00007000
  | .slli _ _ _ => 0xFE000000
  | .srli _ _ _ | .srai _ _ _ => 0xBE000000
  | .unknown => 0xFFFFFFFF
  | .add _ _ _ | .sub _ _ _ | .sll _ _ _ | .srl _ _ _ | .sra _ _ _ | .mul _ _ _ | .div _ _ _
  | .addi _ _ _ | .slti _ _ _ | .sltiu _ _ _ | .xori _ _ _ | .ori _ _ _ | .andi _ _ _
  | .lui _ _ | .auipc _ _
  | .lb _ _ _ | .lh _ _ _ | .lw _ _ _ | .lbu _ _ _ | .lhu _ _ _
  | .sb _ _ _ | .sh _ _ _ | .sw _ _ _ | .sd _ _ _ | .jal _ _
  | .beq _ _ _ | .bne _ _ _ | .blt _ _ _ | .bge _ _ _ | .bltu _ _ _ | .bgeu _ _ _
  | .nop => 0

namespace Machine

/-! ## The spec's tables over instructions and records -/

/-- The signal table (30_encoding.md R131). -/
def signalTable : Instr → Control
  | .add _ _ _ => ⟨true, false, false, false, some .add⟩
  | .sub _ _ _ => ⟨true, false, false, false, some .sub⟩
  | .sll _ _ _ => ⟨true, false, false, false, some .sll⟩
  | .srl _ _ _ => ⟨true, false, false, false, some .srl⟩
  | .sra _ _ _ => ⟨true, false, false, false, some .sra⟩
  | .mul _ _ _ => ⟨true, false, false, false, some .mul⟩
  | .div _ _ _ => ⟨true, false, false, false, some .div⟩
  | .addi _ _ _ | .slti _ _ _ | .sltiu _ _ _ | .xori _ _ _ | .ori _ _ _ | .andi _ _ _ =>
    ⟨true, false, false, false, some .add⟩
  | .slli _ _ _ => ⟨true, false, false, false, some .slli⟩
  | .srli _ _ _ => ⟨true, false, false, false, some .srli⟩
  | .srai _ _ _ => ⟨true, false, false, false, some .srai⟩
  | .lb _ _ _ | .lh _ _ _ | .lw _ _ _ | .lbu _ _ _ | .lhu _ _ _ =>
    ⟨true, true, false, false, some .add⟩
  | .jalr _ _ _ => ⟨true, false, false, false, some .add⟩
  | .sb _ _ _ | .sh _ _ _ | .sw _ _ _ | .sd _ _ _ => ⟨false, false, true, false, some .add⟩
  | .beq _ _ _ | .bne _ _ _ | .blt _ _ _ | .bge _ _ _ | .bltu _ _ _ | .bgeu _ _ _ =>
    ⟨false, false, false, true, some .sub⟩
  | .lui _ _ | .auipc _ _ | .jal _ _ => ⟨true, false, false, false, none⟩
  | .nop | .unknown => ⟨false, false, false, false, none⟩

/-- The ALU under a latch's aluOp; NONE has no ALU function (40_alu.md R169). -/
def onAlu (policy : DivOverflow) (ctl : Control) (a b : Word) : Option Word :=
  match ctl.aluOp with
  | some op => alu policy op a b
  | none => none

/-- The EX result by the record and its signals, as the pipeline's own pseudocode has it
(50_pipeline.md R305). `none` is fault(div_overflow), or an ALU applied to NONE, which never happens
(40_alu.md R169). -/
def exResult (policy : DivOverflow) (ins : Record) (ctl : Control) (ipc a b : Word) : Option Word :=
  match ins.payload with
  | .j _ _ => some (ipc + 4)
  | .i _ _ _ imm => if ins.opcode = 0x67 then some (ipc + 4) else onAlu policy ctl a imm
  | .u _ imm => if ins.opcode = 0x37 then some imm else some (ipc + imm)
  | .r _ _ _ _ _ => onAlu policy ctl a b
  | .s _ _ _ imm => onAlu policy ctl a imm
  | .b _ _ _ _ => alu policy .sub a b
  | .nop => some 0
  | .unknown => some 0

/-- The comparison of a B-type record, by funct3 (44_control_transfer.md R261 to R266); the values 2 and 3
are unsupported. -/
def branchTaken (funct3 : BitVec 3) (a b : Word) : Bool :=
  if funct3 = 0 then decide (a = b)
  else if funct3 = 1 then decide (a ≠ b)
  else if funct3 = 4 then decide (a.toInt < b.toInt)
  else if funct3 = 5 then decide (b.toInt ≤ a.toInt)
  else if funct3 = 6 then decide (a.toNat < b.toNat)
  else decide (b.toNat ≤ a.toNat)

/-- The redirect ID signals, by the record, as the pipeline's own pseudocode has it (R317). -/
def redirectOf (ins : Record) (ipc a b : Word) : Option Word :=
  match ins.payload with
  | .b _ _ f3 imm => some (if branchTaken f3 a b then ipc + imm else ipc + 4)
  | .j _ imm => some (ipc + imm)
  | .i _ _ _ imm => if ins.opcode = 0x67 then some ((a + imm) &&& 0xFFFFFFFE) else none
  | .r _ _ _ _ _ => none
  | .s _ _ _ _ => none
  | .u _ _ => none
  | .nop => none
  | .unknown => none

/-- The record stands for an instruction. -/
def supported (ins : Record) : Bool :=
  match ins.instr with
  | .ok _ => true
  | .error _ => false

/-! ## When a cycle ends in an outcome (R353, 60_exceptions.md R383, R384) -/

/-- The bytes an instruction moves, if it accesses memory. -/
def accessSize (i : Instr) : Option Nat :=
  match i.loadKind with
  | some k => some k.size
  | none => i.storeKind.map StoreKind.size

/-- MEM holds an out-of-range access, under OOB_POLICY = fault (R384). -/
def faultsInMem (s : State) : Prop :=
  s.input.oobPolicy = .fault ∧ ∃ i n, s.cur.exmem.ins.instr = .ok i ∧ accessSize i = some n ∧
    Config.memSize < s.cur.exmem.aluResult.toNat + n

/-- EX holds the open DIV, where DIV_OVERFLOW is a fault (40_alu.md R164). -/
def faultsInEx (s : State) : Prop :=
  s.input.divOverflow = .fault ∧ ∃ rd rs1 rs2, s.cur.idex.ins.instr = .ok (.div rd rs1 rs2) ∧
    s.operandInEx (some rs1) s.cur.idex.a = 0x80000000 ∧
    s.operandInEx (some rs2) s.cur.idex.b = 0xFFFFFFFF

/-- ID holds an unsupported word that is not stalled (R313). -/
def refusedInId (s : State) : Prop :=
  hazard s.input.fwd s.cur s.cur.ifid.ins = false ∧ supported s.cur.ifid.ins = false

/-- B-type, JAL and JALR, the records that redirect when they leave ID (R316). -/
def redirects (ins : Record) : Bool := ins.opcode == 0x63 || ins.opcode == 0x6F || ins.opcode == 0x67

/-- This cycle's IF will fetch: ID neither stalls nor redirects (R340). -/
def fetches (s : State) : Bool :=
  !hazard s.input.fwd s.cur s.cur.ifid.ins && !redirects s.cur.ifid.ins

/-- IF fetches from a pc that is not a multiple of 4, where MISALIGNED_FETCH is a fault (R342). -/
def faultsInIf (s : State) : Prop :=
  s.input.misalignedFetch = .fault ∧ fetches s = true ∧ s.pc.toNat % 4 ≠ 0

/-! ## The invariant of the core between cycles -/

/-- The record is what the decoder makes of its raw word (10_state.md R40, R42). -/
def decoded (ins : Record) : Bool := ins == decodeRecord ins.raw

/-- A latch behind ID: a decoded, supported record with the signals the ControlUnit gives it
(R40, R48; 50_pipeline.md R313). -/
def issued (ins : Record) (ctl : Control) : Bool := decoded ins && supported ins && ctl == control ins

/-- The id of a latch: none for a NOP or for what a misaligned fetch read, and otherwise the index of the
word of PROG it was fetched from (00_scope.md R27, R28). -/
def labelled (prog : List Word) (ins : Record) (pc : Word) (id : Option Nat) : Bool :=
  match id with
  | none => ins.payload == .nop || !aligned pc
  | some k => ins.payload != .nop && prog[k]? == some ins.raw && pc.toNat == 4 * k

structure Inv (s : State) : Prop where
  /-- memory keeps its canonical form, inside the data memory (R45) -/
  memory : s.mem.wf && s.mem.bounded = true
  /-- the slot of x0 holds zero (R31) -/
  zero : s.regs[0] = 0
  /-- no decision and no half-done cycle is left over -/
  settled : s.nxt = s.cur ∧ s.stalled = false ∧ s.redirect = none ∧ s.activity = .whole
  ifid : decoded s.cur.ifid.ins && labelled s.input.prog s.cur.ifid.ins s.cur.ifid.pc s.cur.ifid.id = true
  idex : issued s.cur.idex.ins s.cur.idex.ctl &&
    labelled s.input.prog s.cur.idex.ins s.cur.idex.pc s.cur.idex.id = true
  exmem : issued s.cur.exmem.ins s.cur.exmem.ctl &&
    labelled s.input.prog s.cur.exmem.ins s.cur.exmem.pc s.cur.exmem.id = true
  memwb : issued s.cur.memwb.ins s.cur.memwb.ctl &&
    labelled s.input.prog s.cur.memwb.ins s.cur.memwb.pc s.cur.memwb.id = true
  /-- an operand field with no source, and the load value of no load, are 0 (R48, R50) -/
  unused : (s.cur.idex.ins.rs1 = none → s.cur.idex.a = 0) ∧ (s.cur.idex.ins.rs2 = none → s.cur.idex.b = 0) ∧
    (s.cur.memwb.ctl.memRead = false → s.cur.memwb.memData = 0)
  /-- the log speaks of past cycles only (50_pipeline.md R362) -/
  past : (s.log.all fun e => decide (e.cycle < s.cycle)) = true

/-- A cell of the log holds only "-", or only real stage names (R361). -/
def dashAlone (log : List LogEntry) : Prop :=
  ∀ id cycle, StageName.dash ∈ logCell log id cycle → logCell log id cycle = [.dash]

/-! ## The sequential reading (50_pipeline.md R338) -/

/-- One whole instruction of PROG, in program order: the S of R338. No step of the machine is this one;
it is what the pipeline is compared with. -/
def seqStep (s : State) : Host.Outcome State Fault Refusal :=
  if s.fetchFaults s.pc then .fault (.misalignedFetch ⟨s.cycle, s.pc, none⟩)
  else runIn .whole (decodeFetched (s.wordAt s.pc)) s.pc s

/-- What the sequential reading and the pipeline have in common. -/
structure Arch where
  regs : Regs
  mem : Memory
  pc : Word
  draws : Nat
  deriving DecidableEq, Repr

def State.arch (s : State) : Arch := ⟨s.regs, s.mem, s.pc, s.draws⟩

/-- A cycle in which IF fetches nothing: the instructions in flight move on and pc moves only by a
redirect. -/
def drainCycle (s : State) : Host.Outcome State Fault Refusal :=
  andThen (wbStage s) fun s1 =>
  andThen (memStage s1) fun s2 =>
  andThen (exStage s2) fun s3 =>
  andThen (idStage s3) fun s4 =>
  .next ((commit (holdOrSquash s4)).setPc (s4.redirect.getD s4.pc))

/-- Six such cycles empty the pipeline: at most two stalls, then ID, EX, MEM and WB. -/
def drain : Nat → State → Host.Outcome State Fault Refusal
  | 0, s => .next s
  | k + 1, s => andThen (drainCycle s) (drain k)

end Machine

end Sys2Proof
end

