-- ==== Sys2Proof/Certificates/Slice0/Obligations.lean ====
section
/-! DEFINITION. The statements for the provers. Titles, quotes and cites are in OBLIGATIONS.json. -/

open Sys2Proof Sys2Proof.Machine

/-! ## Encoding (spec/30_encoding.md) -/

/-- Words of spec/95_test_vectors.md, written out bit by bit, decode to the instructions they stand for. -/
def Obligations.SpecWordsDecode : Prop :=
  decode 0b00000000010100000000000010010011 = .ok (.addi 1 0 5) ∧
  decode 0b00000000001000001000001010110011 = .ok (.add 5 1 2) ∧
  decode 0b01000000010000010101000010010011 = .ok (.srai 1 2 4) ∧
  decode 0b00000000000100010011010000100011 = .ok (.sd 2 1 8) ∧
  decode 0b11111110001000001100111011100011 = .ok (.blt 1 2 (-4)) ∧
  decode 0b00010010001101000101000010110111 = .ok (.lui 1 0x12345000) ∧
  decode 0b11111111100111111111000001101111 = .ok (.jal 0 (-8)) ∧
  decode 0b00000000010000010001000011100111 = .ok (.jalr 1 2 4) ∧
  decode 0b00000000000000010010000010000011 = .ok (.lw 1 2 0)

/-- Decode undoes encode, for every instruction and every operand its encoding admits. It rests on the
encoder's choice for the bits the decoder ignores, log 17. -/
def Obligations.DecodeUndoesEncode : Prop :=
  ∀ i : Instr, i.wellFormed = true → decode (encode i) = .ok i

/-- Every immediate the decoder makes is one its format can hold. -/
def Obligations.DecodedInstructionsAreWellFormed : Prop :=
  ∀ (w : Word) (i : Instr), decode w = .ok i → i.wellFormed = true

/-- R138. A word decodes to a recognised instruction exactly when it agrees, on every bit but the ignored
ones, with another word that does. -/
def Obligations.OnlyIgnoredBitsAreIgnored : Prop :=
  ∀ (w w' : Word) (i : Instr), decode w = .ok i → i ≠ .unknown →
    (decode w' = .ok i ↔ w' &&& ~~~i.ignoredBits = w &&& ~~~i.ignoredBits)

/-- R137. The unsupported words are exactly (a) to (d). One that is in ID, unstalled, in a cycle in which
neither MEM nor EX can fault is refused; one that is stalled there is not; and fetching one is not. -/
def Obligations.UnsupportedWordsAreRefused : Prop :=
  (∀ w : Word, (∃ u, decode w = .error u) ↔
    (opcodeOf w = 0x33 ∧ (funct7Of w, funct3Of w) ∉
      [(0x00#7, 0x0#3), (0x20, 0x0), (0x00, 0x1), (0x00, 0x5), (0x20, 0x5), (0x01, 0x0), (0x01, 0x4)]) ∨
    (opcodeOf w = 0x03 ∧ funct3Of w ∈ [3#3, 6, 7]) ∨
    (opcodeOf w = 0x23 ∧ funct3Of w ∈ [4#3, 5, 6, 7]) ∨
    (opcodeOf w = 0x63 ∧ funct3Of w ∈ [2#3, 3])) ∧
  (∀ (s : State) (w : Word) (u : Unsupported), Inv s → s.mark = none →
    s.input.oobPolicy = .ignore → ¬faultsInEx s →
    s.cur.ifid.ins = decodeRecord w → decode w = .error u →
    (hazard s.input.fwd s.cur s.cur.ifid.ins = false →
      step s = .refused (.unsupported ⟨s.cycle, s.cur.ifid.pc, some w⟩)) ∧
    (hazard s.input.fwd s.cur s.cur.ifid.ins = true → ∃ t, step s = .next t)) ∧
  (∀ (s : State) (r : Refusal), ifStage s ≠ .refused r)

/-- Which words are the two inert decode outcomes: the zero word, and every other word whose opcode is none
of the nine. -/
def Obligations.InertWords : Prop :=
  ∀ w : Word, (decode w = .ok .nop ↔ w = 0) ∧
    (decode w = .ok .unknown ↔
      w ≠ 0 ∧ opcodeOf w ∉ [0x33#7, 0x13, 0x03, 0x67, 0x23, 0x63, 0x37, 0x17, 0x6F])

/-- The ControlUnit on every word, by the rows of R131 (R121 to R130): one that stands for an instruction
has its instruction's signals, an R-type word of another (funct7, funct3) pair writes with aluOp NONE, and
loads, stores and branches have theirs whatever funct3 is. The last clause is the bubble. -/
def Obligations.ControlSignalTable : Prop :=
  (∀ (w : Word) (i : Instr), decode w = .ok i → control (decodeRecord w) = signalTable i) ∧
  (∀ w : Word, opcodeOf w = 0x33 → (funct7Of w, funct3Of w) ∉
      [(0x00#7, 0x0#3), (0x20, 0x0), (0x00, 0x1), (0x00, 0x5), (0x20, 0x5), (0x01, 0x0), (0x01, 0x4)] →
    control (decodeRecord w) = ⟨true, false, false, false, none⟩) ∧
  (∀ w : Word,
    (opcodeOf w = 0x03 → control (decodeRecord w) = ⟨true, true, false, false, some .add⟩) ∧
    (opcodeOf w = 0x23 → control (decodeRecord w) = ⟨false, false, true, false, some .add⟩) ∧
    (opcodeOf w = 0x63 → control (decodeRecord w) = ⟨false, false, false, true, some .sub⟩)) ∧
  control nopRecord = ⟨false, false, false, false, none⟩ ∧ IdEx.empty.ctl = control nopRecord

/-- The source registers and the destination of a decoded word are its instruction's, by format. -/
def Obligations.SourcesAndDestinationByFormat : Prop :=
  ∀ (w : Word) (i : Instr), decode w = .ok i →
    (decodeRecord w).sources = i.sources ∧ (decodeRecord w).rd = i.dest

/-! ## The ALU (spec/40_alu.md) -/

/-- R161, R162, R163. Addition, subtraction and multiplication modulo 2^32, the same for signed and
unsigned readings. -/
def Obligations.AluAddSubMulWrap : Prop :=
  ∀ (p : DivOverflow) (a b : Word),
    alu p .add a b = some (BitVec.ofNat 32 (a.toNat + b.toNat)) ∧
    alu p .add a b = some (BitVec.ofInt 32 (a.toInt + b.toInt)) ∧
    alu p .sub a b = some (BitVec.ofInt 32 ((a.toNat : Int) - (b.toNat : Int))) ∧
    alu p .mul a b = some (BitVec.ofNat 32 (a.toNat * b.toNat)) ∧
    alu p .mul a b = some (BitVec.ofInt 32 (a.toInt * b.toInt))

/-- R165 to R168, R170. A shift by the low five bits of b: a multiplication, or a quotient rounded down, of
the unsigned or the signed value. -/
def Obligations.AluShiftsByLowFiveBits : Prop :=
  ∀ (p : DivOverflow) (a b : Word) (n : Nat), n = b.toNat % 32 →
    alu p .sll a b = some (BitVec.ofNat 32 (a.toNat * 2 ^ n)) ∧
    alu p .srl a b = some (BitVec.ofNat 32 (a.toNat / 2 ^ n)) ∧
    alu p .sra a b = some (BitVec.ofInt 32 (Int.fdiv a.toInt (2 ^ n))) ∧
    alu p .slli a b = alu p .sll a b ∧ alu p .srli a b = alu p .srl a b ∧
    alu p .srai a b = alu p .sra a b ∧
    (n = 0 → alu p .sll a b = some a ∧ alu p .srl a b = some a ∧ alu p .sra a b = some a)

/-- R164: signed division truncating toward zero, 0 for a zero divisor, and the open pair, a fault raised in
EX where DIV_OVERFLOW has the spec's treatment. That the open pair has the host's value where DIV_OVERFLOW
names one is the model's choice, log 8. -/
def Obligations.AluDivTruncates : Prop :=
  (∀ (p : DivOverflow) (a b : Word),
    (b = 0 → alu p .div a b = some 0) ∧
    (b ≠ 0 → ¬(a = 0x80000000 ∧ b = 0xFFFFFFFF) →
      ∃ r : Word, alu p .div a b = some r ∧ r.toInt = Int.tdiv a.toInt b.toInt)) ∧
  alu .fault .div 0x80000000 0xFFFFFFFF = none ∧
  (∀ v : Word, alu (.value v) .div 0x80000000 0xFFFFFFFF = some v) ∧
  (∀ (rd rs1 rs2 : Reg) (s : State), s.activity = .ex → s.input.divOverflow = .fault →
    s.operandInEx (some rs1) s.cur.idex.a = 0x80000000 →
    s.operandInEx (some rs2) s.cur.idex.b = 0xFFFFFFFF →
    exec (.div rd rs1 rs2) s =
      .fault (.divOverflow ⟨s.cycle, s.cur.idex.pc, some s.cur.idex.ins.raw⟩))

/-! ## Data memory (spec/20_memory.md) -/

/-- R71, R72, R73, R75, R78: MemRead and MemWrite at every address, aligned or not: in range the bytes, the
least significant at the lowest address, and no other byte; out of range, on unbounded integers, 0 and no
byte. OOB_POLICY has its normative value. That bytes 4 to 7 of a doubleword are the draw `Config.sdHigh` of
the counter `draws` is the model's choice (log 7), and so is the canonical form `wf` (log 2). -/
def Obligations.WideAccessesAreLittleEndian : Prop :=
  ∀ (s : State) (ea d : Word), s.mem.wf = true → s.input.oobPolicy = .ignore →
    (∀ k : LoadKind, ∃ v : Word, s.load k ea = some v ∧
      (ea.toNat + k.size ≤ Config.memSize →
        ∀ j, j < k.size → byteOf v j = s.mem.read (ea.toNat + j)) ∧
      (Config.memSize < ea.toNat + k.size → v = 0)) ∧
    (∀ k : StoreKind, ∃ t : State, s.store k ea d = some t ∧ t.mem.wf = true ∧
      (ea.toNat + k.size ≤ Config.memSize →
        (∀ j, j < k.size → j < 4 → t.mem.read (ea.toNat + j) = byteOf d j) ∧
        (∀ j, 4 ≤ j → j < k.size →
          t.mem.read (ea.toNat + j) = byteOf (Config.sdHigh s.draws) (j - 4)) ∧
        ∀ x, x < ea.toNat ∨ ea.toNat + k.size ≤ x → t.mem.read x = s.mem.read x) ∧
      (Config.memSize < ea.toNat + k.size → t.mem = s.mem))

/-- R77. Narrow loads see the little-endian bytes of a word store, sign-extended for the signed forms. -/
def Obligations.NarrowLoadsSeeWordStores : Prop :=
  ∀ (s t : State) (a v : Word), s.mem.wf = true → a.toNat + 4 ≤ Config.memSize →
    s.store .word a v = some t →
    t.load .word a = some v ∧
    t.load .byteU a = some ((v.extractLsb' 0 8).setWidth 32) ∧
    t.load .byteU (a + 1) = some ((v.extractLsb' 8 8).setWidth 32) ∧
    t.load .byteU (a + 2) = some ((v.extractLsb' 16 8).setWidth 32) ∧
    t.load .byteU (a + 3) = some ((v.extractLsb' 24 8).setWidth 32) ∧
    t.load .halfU a = some ((v.extractLsb' 0 16).setWidth 32) ∧
    t.load .halfU (a + 1) = some ((v.extractLsb' 8 16).setWidth 32) ∧
    t.load .halfU (a + 2) = some ((v.extractLsb' 16 16).setWidth 32) ∧
    t.load .byte a = some ((v.extractLsb' 0 8).signExtend 32) ∧
    t.load .byte (a + 1) = some ((v.extractLsb' 8 8).signExtend 32) ∧
    t.load .byte (a + 2) = some ((v.extractLsb' 16 8).signExtend 32) ∧
    t.load .byte (a + 3) = some ((v.extractLsb' 24 8).signExtend 32) ∧
    t.load .half a = some ((v.extractLsb' 0 16).signExtend 32) ∧
    t.load .half (a + 1) = some ((v.extractLsb' 8 16).signExtend 32) ∧
    t.load .half (a + 2) = some ((v.extractLsb' 16 16).signExtend 32)

/-- Memories in canonical form that read alike are equal. The form is the model's own. -/
def Obligations.CanonicalMemoriesAreEqual : Prop :=
  ∀ m m' : Memory, m.wf = true → m'.wf = true → (∀ a, m.read a = m'.read a) → m = m'

/-! ## What one whole instruction does (spec/41 to 45)

`exec` between cycles performs a whole instruction at pc, the sequential reading of R338 (log 5). -/

/-- R180, R181, R185. -/
def Obligations.AddSubMulResults : Prop :=
  (∀ w : Word, opcodeOf w = 0x33 →
    (funct7Of w = 0x00 → funct3Of w = 0 → decode w = .ok (.add (rdOf w) (rs1Of w) (rs2Of w))) ∧
    (funct7Of w = 0x20 → funct3Of w = 0 → decode w = .ok (.sub (rdOf w) (rs1Of w) (rs2Of w))) ∧
    (funct7Of w = 0x01 → funct3Of w = 0 → decode w = .ok (.mul (rdOf w) (rs1Of w) (rs2Of w)))) ∧
  ∀ (rd rs1 rs2 : Reg) (s : State), s.activity = .whole →
    exec (.add rd rs1 rs2) s = .next ((s.writeReg rd
      (BitVec.ofNat 32 ((s.readReg rs1).toNat + (s.readReg rs2).toNat))).setPc (s.pc + 4)) ∧
    exec (.sub rd rs1 rs2) s = .next ((s.writeReg rd
      (BitVec.ofInt 32 (((s.readReg rs1).toNat : Int) - ((s.readReg rs2).toNat : Int)))).setPc (s.pc + 4)) ∧
    exec (.mul rd rs1 rs2) s = .next ((s.writeReg rd
      (BitVec.ofNat 32 ((s.readReg rs1).toNat * (s.readReg rs2).toNat))).setPc (s.pc + 4))

/-- R182, R183, R184. -/
def Obligations.RegisterShiftResults : Prop :=
  (∀ w : Word, opcodeOf w = 0x33 →
    (funct7Of w = 0x00 → funct3Of w = 1 → decode w = .ok (.sll (rdOf w) (rs1Of w) (rs2Of w))) ∧
    (funct7Of w = 0x00 → funct3Of w = 5 → decode w = .ok (.srl (rdOf w) (rs1Of w) (rs2Of w))) ∧
    (funct7Of w = 0x20 → funct3Of w = 5 → decode w = .ok (.sra (rdOf w) (rs1Of w) (rs2Of w)))) ∧
  ∀ (rd rs1 rs2 : Reg) (s : State) (n : Nat), s.activity = .whole → n = (s.readReg rs2).toNat % 32 →
    exec (.sll rd rs1 rs2) s = .next ((s.writeReg rd
      (BitVec.ofNat 32 ((s.readReg rs1).toNat * 2 ^ n))).setPc (s.pc + 4)) ∧
    exec (.srl rd rs1 rs2) s = .next ((s.writeReg rd
      (BitVec.ofNat 32 ((s.readReg rs1).toNat / 2 ^ n))).setPc (s.pc + 4)) ∧
    exec (.sra rd rs1 rs2) s = .next ((s.writeReg rd
      (BitVec.ofInt 32 (Int.fdiv (s.readReg rs1).toInt (2 ^ n)))).setPc (s.pc + 4))

/-- R186: DIV for every operand pair, the open one faulting where DIV_OVERFLOW has the spec's treatment.
That DIV writes the host's value on the open pair where DIV_OVERFLOW names one is the model's choice,
log 8. -/
def Obligations.DivResults : Prop :=
  (∀ w : Word, opcodeOf w = 0x33 → funct7Of w = 0x01 → funct3Of w = 4 →
    decode w = .ok (.div (rdOf w) (rs1Of w) (rs2Of w))) ∧
  (∀ (rd rs1 rs2 : Reg) (s : State) (a b : Word), s.activity = .whole →
    a = s.readReg rs1 → b = s.readReg rs2 →
    (b = 0 → exec (.div rd rs1 rs2) s = .next ((s.writeReg rd 0).setPc (s.pc + 4))) ∧
    (b ≠ 0 → ¬(a = 0x80000000 ∧ b = 0xFFFFFFFF) →
      ∃ q : Word, q.toInt = Int.tdiv a.toInt b.toInt ∧
        exec (.div rd rs1 rs2) s = .next ((s.writeReg rd q).setPc (s.pc + 4))) ∧
    (a = 0x80000000 → b = 0xFFFFFFFF → ∀ v : Word, s.input.divOverflow = .value v →
      exec (.div rd rs1 rs2) s = .next ((s.writeReg rd v).setPc (s.pc + 4))) ∧
    (a = 0x80000000 → b = 0xFFFFFFFF → s.input.divOverflow = .fault →
      ∃ r : Report, exec (.div rd rs1 rs2) s = .fault (.divOverflow r))) ∧
  (∀ (rd rs1 rs2 : Reg) (s : State), s.activity = .ex → s.input.divOverflow = .fault →
    s.operandInEx (some rs1) s.cur.idex.a = 0x80000000 →
    s.operandInEx (some rs2) s.cur.idex.b = 0xFFFFFFFF →
    ∃ r : Report, exec (.div rd rs1 rs2) s = .fault (.divOverflow r))

/-- R200 to R205. ADDI and the five encodings that compute ADD. -/
def Obligations.AddImmediateResults : Prop :=
  ∀ p ∈ [(0#3, Instr.addi), (2, Instr.slti), (3, Instr.sltiu), (4, Instr.xori), (6, Instr.ori),
      (7, Instr.andi)],
    (∀ w : Word, opcodeOf w = 0x13 → funct3Of w = p.1 →
      decode w = .ok (p.2 (rdOf w) (rs1Of w) ((w.extractLsb' 20 12).signExtend 32))) ∧
    ∀ (rd rs1 : Reg) (imm : Word) (s : State), s.activity = .whole →
      exec (p.2 rd rs1 imm) s = .next ((s.writeReg rd
        (BitVec.ofNat 32 ((s.readReg rs1).toNat + imm.toNat))).setPc (s.pc + 4))

/-- R206, R207, R208. The shift amount is raw[24:20], and raw[30] alone tells SRAI from SRLI. -/
def Obligations.ImmediateShiftResults : Prop :=
  (∀ w : Word, opcodeOf w = 0x13 →
    (funct3Of w = 1 → decode w = .ok (.slli (rdOf w) (rs1Of w) (w.extractLsb' 20 5))) ∧
    (funct3Of w = 5 → w.getLsbD 30 = false →
      decode w = .ok (.srli (rdOf w) (rs1Of w) (w.extractLsb' 20 5))) ∧
    (funct3Of w = 5 → w.getLsbD 30 = true →
      decode w = .ok (.srai (rdOf w) (rs1Of w) (w.extractLsb' 20 5)))) ∧
  ∀ (rd rs1 : Reg) (shamt : BitVec 5) (s : State), s.activity = .whole →
    exec (.slli rd rs1 shamt) s = .next ((s.writeReg rd
      (BitVec.ofNat 32 ((s.readReg rs1).toNat * 2 ^ shamt.toNat))).setPc (s.pc + 4)) ∧
    exec (.srli rd rs1 shamt) s = .next ((s.writeReg rd
      (BitVec.ofNat 32 ((s.readReg rs1).toNat / 2 ^ shamt.toNat))).setPc (s.pc + 4)) ∧
    exec (.srai rd rs1 shamt) s = .next ((s.writeReg rd
      (BitVec.ofInt 32 (Int.fdiv (s.readReg rs1).toInt (2 ^ shamt.toNat)))).setPc (s.pc + 4))

/-- R210, R211. LUI never stalls; AUIPC adds to the instruction's own address, in EX. -/
def Obligations.UpperImmediateResults : Prop :=
  (∀ w : Word,
    (opcodeOf w = 0x37 → decode w = .ok (.lui (rdOf w) (w.extractLsb' 12 20 ++ 0#12)) ∧
      ∀ (fwd : Bool) (c : Latches), hazard fwd c (decodeRecord w) = false) ∧
    (opcodeOf w = 0x17 → decode w = .ok (.auipc (rdOf w) (w.extractLsb' 12 20 ++ 0#12)))) ∧
  ∀ (rd : Reg) (imm : Word) (s : State),
    (s.activity = .whole →
      exec (.lui rd imm) s = .next ((s.writeReg rd imm).setPc (s.pc + 4)) ∧
      exec (.auipc rd imm) s = .next ((s.writeReg rd
        (BitVec.ofNat 32 (s.pc.toNat + imm.toNat))).setPc (s.pc + 4))) ∧
    (s.activity = .ex → ∃ t u : State,
      exec (.lui rd imm) s = .next t ∧ t.nxt.exmem.aluResult = imm ∧
      exec (.auipc rd imm) s = .next u ∧
      u.nxt.exmem.aluResult = BitVec.ofNat 32 (s.cur.idex.pc.toNat + imm.toNat))

/-- R231 to R235. Every load at every address: in range the extended little-endian bytes, out of range 0,
with the destination written in both cases. OOB_POLICY has its normative value. -/
def Obligations.LoadResults : Prop :=
  (∀ w : Word, opcodeOf w = 0x03 →
    ∀ p ∈ [(0#3, Instr.lb), (1, Instr.lh), (2, Instr.lw), (4, Instr.lbu), (5, Instr.lhu)],
      funct3Of w = p.1 → decode w = .ok (p.2 (rdOf w) (rs1Of w) ((w.extractLsb' 20 12).signExtend 32))) ∧
  ∀ (rd rs1 : Reg) (imm : Word) (s : State) (x : Nat), s.activity = .whole →
    s.input.oobPolicy = .ignore → x = (s.readReg rs1 + imm).toNat →
    exec (.lb rd rs1 imm) s = .next ((s.writeReg rd
      (if x + 1 ≤ Config.memSize then (s.mem.read x).signExtend 32 else 0)).setPc (s.pc + 4)) ∧
    exec (.lh rd rs1 imm) s = .next ((s.writeReg rd
      (if x + 2 ≤ Config.memSize then (s.mem.read (x + 1) ++ s.mem.read x).signExtend 32
        else 0)).setPc (s.pc + 4)) ∧
    exec (.lw rd rs1 imm) s = .next ((s.writeReg rd
      (if x + 4 ≤ Config.memSize then
          s.mem.read (x + 3) ++ s.mem.read (x + 2) ++ s.mem.read (x + 1) ++ s.mem.read x
        else 0)).setPc (s.pc + 4)) ∧
    exec (.lbu rd rs1 imm) s = .next ((s.writeReg rd
      (if x + 1 ≤ Config.memSize then (s.mem.read x).setWidth 32 else 0)).setPc (s.pc + 4)) ∧
    exec (.lhu rd rs1 imm) s = .next ((s.writeReg rd
      (if x + 2 ≤ Config.memSize then (s.mem.read (x + 1) ++ s.mem.read x).setWidth 32
        else 0)).setPc (s.pc + 4))

/-- R241, R242, R243. SB, SH and SW at every address. OOB_POLICY has its normative value. -/
def Obligations.StoreResults : Prop :=
  (∀ w : Word, opcodeOf w = 0x23 →
    ∀ p ∈ [(0#3, Instr.sb), (1, Instr.sh), (2, Instr.sw)], funct3Of w = p.1 →
      decode w = .ok (p.2 (rs1Of w) (rs2Of w)
        ((w.extractLsb' 25 7 ++ w.extractLsb' 7 5 : BitVec 12).signExtend 32))) ∧
  ∀ (rs1 rs2 : Reg) (imm : Word) (s : State) (x : Nat), s.activity = .whole → s.mem.wf = true →
    s.input.oobPolicy = .ignore → x = (s.readReg rs1 + imm).toNat →
    ∀ p ∈ [(1, Instr.sb rs1 rs2 imm), (2, Instr.sh rs1 rs2 imm), (4, Instr.sw rs1 rs2 imm)],
      ∃ m : Memory, exec p.2 s = .next ((s.setMem m).setPc (s.pc + 4)) ∧ m.wf = true ∧
        (x + p.1 ≤ Config.memSize →
          (∀ j, j < p.1 → m.read (x + j) = (s.readReg rs2).extractLsb' (8 * j) 8) ∧
          ∀ y, y < x ∨ x + p.1 ≤ y → m.read y = s.mem.read y) ∧
        (Config.memSize < x + p.1 → m = s.mem)

/-- R244. SD writes rs2 to the low four bytes and the value drawn to the upper four, or nothing, and uses up
the draw. The statement holds for every value the draw can have; the draw counter is the model's (log 7). -/
def Obligations.StoreDoublewordResults : Prop :=
  (∀ w : Word, opcodeOf w = 0x23 → funct3Of w = 3 →
    decode w = .ok (.sd (rs1Of w) (rs2Of w)
      ((w.extractLsb' 25 7 ++ w.extractLsb' 7 5 : BitVec 12).signExtend 32))) ∧
  ∀ (rs1 rs2 : Reg) (imm : Word) (s : State) (x : Nat), s.activity = .whole → s.mem.wf = true →
    s.input.oobPolicy = .ignore → x = (s.readReg rs1 + imm).toNat →
    ∃ m : Memory, m.wf = true ∧
      exec (.sd rs1 rs2 imm) s =
        .next { s with mem := m, pc := s.pc + 4, draws := s.draws + 1 } ∧
      (x + 8 ≤ Config.memSize →
        (∀ j, j < 4 → m.read (x + j) = (s.readReg rs2).extractLsb' (8 * j) 8) ∧
        (∀ j, j < 4 → m.read (x + 4 + j) = (Config.sdHigh s.draws).extractLsb' (8 * j) 8) ∧
        ∀ y, y < x ∨ x + 8 ≤ y → m.read y = s.mem.read y) ∧
      (Config.memSize < x + 8 → m = s.mem)

/-- R261 to R266. Each branch: its encoding, the redirect it makes in ID from its own address and the
operands ID reads, and pc after the whole instruction; no register and no memory is written. -/
def Obligations.BranchResults : Prop :=
  ∀ p ∈ [(0#3, Instr.beq, fun a b : Word => decide (a = b)),
      (1, Instr.bne, fun a b => decide (a ≠ b)),
      (4, Instr.blt, fun a b => decide (a.toInt < b.toInt)),
      (5, Instr.bge, fun a b => decide (b.toInt ≤ a.toInt)),
      (6, Instr.bltu, fun a b => decide (a.toNat < b.toNat)),
      (7, Instr.bgeu, fun a b => decide (b.toNat ≤ a.toNat))],
    (∀ w : Word, opcodeOf w = 0x63 → funct3Of w = p.1 →
      decode w = .ok (p.2.1 (rs1Of w) (rs2Of w)
        ((w.extractLsb' 31 1 ++ w.extractLsb' 7 1 ++ w.extractLsb' 25 6 ++ w.extractLsb' 8 4 ++ 0#1 :
          BitVec 13).signExtend 32))) ∧
    (∀ (rs1 rs2 : Reg) (imm : Word) (s : State), s.activity = .id →
      ∃ t : State, exec (p.2.1 rs1 rs2 imm) s = .next t ∧ t.regs = s.regs ∧ t.mem = s.mem ∧
        t.redirect = some (if p.2.2 (s.operandInId (some rs1)) (s.operandInId (some rs2))
          then s.cur.ifid.pc + imm else s.cur.ifid.pc + 4)) ∧
    (∀ (rs1 rs2 : Reg) (imm : Word) (s : State), s.activity = .whole →
      exec (p.2.1 rs1 rs2 imm) s = .next (s.setPc
        (if p.2.2 (s.readReg rs1) (s.readReg rs2) then s.pc + imm else s.pc + 4)))

/-- R267, R268. The target goes to pc, in ID, and the link through the EX result; JALR clears bit 0 of the
sum of the old rs1 and the immediate. -/
def Obligations.JumpResults : Prop :=
  (∀ w : Word,
    (opcodeOf w = 0x6F → decode w = .ok (.jal (rdOf w)
      ((w.extractLsb' 31 1 ++ w.extractLsb' 12 8 ++ w.extractLsb' 20 1 ++ w.extractLsb' 21 10 ++ 0#1 :
        BitVec 21).signExtend 32))) ∧
    (opcodeOf w = 0x67 → decode w = .ok (.jalr (rdOf w) (rs1Of w) ((w.extractLsb' 20 12).signExtend 32)))) ∧
  (∀ (rd rs1 : Reg) (imm : Word) (s : State),
    (s.activity = .id → ∃ t u : State,
      exec (.jal rd imm) s = .next t ∧ t.redirect = some (s.cur.ifid.pc + imm) ∧
      exec (.jalr rd rs1 imm) s = .next u ∧
      u.redirect = some ((s.operandInId (some rs1) + imm) &&& 0xFFFFFFFE)) ∧
    (s.activity = .ex → ∃ t u : State,
      exec (.jal rd imm) s = .next t ∧ t.nxt.exmem.aluResult = s.cur.idex.pc + 4 ∧
      exec (.jalr rd rs1 imm) s = .next u ∧ u.nxt.exmem.aluResult = s.cur.idex.pc + 4) ∧
    (s.activity = .whole →
      exec (.jal rd imm) s = .next ((s.writeReg rd (s.pc + 4)).setPc (s.pc + imm)) ∧
      exec (.jalr rd rs1 imm) s = .next ((s.writeReg rd (s.pc + 4)).setPc
        ((s.readReg rs1 + imm) &&& 0xFFFFFFFE))))

/-- NOP and UNKNOWN do nothing but pass: as whole instructions only pc moves on, and in WB, MEM and ID no
register, no byte and no redirect is written. -/
def Obligations.InertResults : Prop :=
  ∀ (i : Instr) (s : State), i = .nop ∨ i = .unknown →
    (s.activity = .whole → exec i s = .next (s.setPc (s.pc + 4))) ∧
    (s.activity ≠ .whole → ∃ t : State, exec i s = .next t ∧ t.regs = s.regs ∧ t.mem = s.mem ∧
      t.pc = s.pc ∧ t.draws = s.draws ∧ (s.activity = .id → t.redirect = none))

/-- Every instruction completes as a whole under OOB_POLICY = ignore, unless it is the open DIV where
DIV_OVERFLOW is a fault. -/
def Obligations.EveryInstructionCompletes : Prop :=
  ∀ (i : Instr) (s : State), s.activity = .whole → s.input.oobPolicy = .ignore →
    (∀ rd rs1 rs2 : Reg, i = .div rd rs1 rs2 → s.input.divOverflow = .fault →
      ¬(s.readReg rs1 = 0x80000000 ∧ s.readReg rs2 = 0xFFFFFFFF)) →
    ∃ t : State, exec i s = .next t

/-- R31. x0: every read yields 0, in the register file, in ID and from the forwarding mux; every write is
dropped, by a whole instruction and in WB. -/
def Obligations.X0IsHardwiredToZero : Prop :=
  (∀ (s : State) (c : Latches) (v : Word), s.readReg 0 = 0 ∧ s.operandInId (some 0) = 0 ∧
    forward c 0 v = 0 ∧ s.writeReg 0 v = s) ∧
  (∀ (i : Instr) (s t : State), i.dest = some 0 → exec i s = .next t → t.regs = s.regs) ∧
  (∀ s t : State, s.cur.memwb.ins.rd = some 0 → step s = .next t → t.regs = s.regs)

/-- The frame of every whole instruction that stores nothing: registers but its destination, and everything
else but pc, unchanged. -/
def Obligations.NonStoringFrame : Prop :=
  ∀ (i : Instr) (s t : State), s.activity = .whole → i.storeKind = none → exec i s = .next t →
    (∀ r : Reg, i.dest ≠ some r → t.readReg r = s.readReg r) ∧
    (∀ a : Nat, t.mem.read a = s.mem.read a) ∧
    t.input = s.input ∧ t.mem = s.mem ∧ t.cur = s.cur ∧ t.nxt = s.nxt ∧ t.stalled = s.stalled ∧
    t.redirect = s.redirect ∧ t.cycle = s.cycle ∧ t.mark = s.mark ∧ t.log = s.log ∧
    t.activity = s.activity ∧ t.draws = s.draws

/-- The frame of the four stores: no register, and no byte outside those stored, from the address base plus
offset on; SD alone also uses up a draw (log 7). -/
def Obligations.StoringFrame : Prop :=
  ∀ (rs1 rs2 : Reg) (imm : Word) (i : Instr) (k : StoreKind) (s t : State), s.activity = .whole →
    (i, k) ∈ [(Instr.sb rs1 rs2 imm, StoreKind.byte), (Instr.sh rs1 rs2 imm, .half),
      (Instr.sw rs1 rs2 imm, .word), (Instr.sd rs1 rs2 imm, .double)] →
    exec i s = .next t →
    (∀ r : Reg, t.readReg r = s.readReg r) ∧
    (∀ a ea : Nat, ea = (s.readReg rs1 + imm).toNat → (a < ea ∨ ea + k.size ≤ a) →
      t.mem.read a = s.mem.read a) ∧
    t.regs = s.regs ∧ t.pc = s.pc + 4 ∧ t.input = s.input ∧ t.cur = s.cur ∧ t.nxt = s.nxt ∧
    t.stalled = s.stalled ∧ t.redirect = s.redirect ∧ t.cycle = s.cycle ∧ t.mark = s.mark ∧
    t.log = s.log ∧ t.activity = s.activity ∧
    t.draws = (if k = .double then s.draws + 1 else s.draws)

/-- In a cycle's stage every instruction changes only what the stage owns: WB its destination register, MEM
the bytes stored and next MEM/WB, EX next EX/MEM, ID next ID/EX and the redirect. An SD that makes its
access in MEM also uses up a draw; the draw counter is the model's (log 7). -/
def Obligations.StageFrames : Prop :=
  ∀ (i : Instr) (s t : State), exec i s = .next t →
    (s.activity = .wb → t = { s with regs := t.regs } ∧
      ∀ r : Reg, i.dest ≠ some r → t.readReg r = s.readReg r) ∧
    (s.activity = .mem → t = { s with mem := t.mem, draws := t.draws, nxt := { s.nxt with memwb := t.nxt.memwb } } ∧
      (∀ a : Nat, (a < s.cur.exmem.aluResult.toNat ∨
          ∀ k, i.storeKind = some k → s.cur.exmem.aluResult.toNat + k.size ≤ a) →
        t.mem.read a = s.mem.read a) ∧
      (s.cur.exmem.ctl.memWrite = false → t.mem = s.mem) ∧
      t.draws = (if i.storeKind = some .double ∧ s.cur.exmem.ctl.memWrite = true then s.draws + 1
        else s.draws)) ∧
    (s.activity = .ex → t = { s with nxt := { s.nxt with exmem := t.nxt.exmem } }) ∧
    (s.activity = .id → t = { s with
      nxt := { s.nxt with idex := t.nxt.idex }, redirect := t.redirect })

/-- R384. Under OOB_POLICY = fault every out-of-range access in MEM raises fault(out_of_range), with the
address and word of EX/MEM, and no access in range does; `ignore` is the construction default. -/
def Obligations.OutOfRangeFaultsUnderTheOption : Prop :=
  (∀ (i : Instr) (n : Nat) (s : State), s.activity = .mem → s.input.oobPolicy = .fault →
    accessSize i = some n → s.cur.exmem.ctl = signalTable i →
    (Config.memSize < s.cur.exmem.aluResult.toNat + n →
      exec i s = .fault (.outOfRange ⟨s.cycle, s.cur.exmem.pc, some s.cur.exmem.ins.raw⟩)) ∧
    (s.cur.exmem.aluResult.toNat + n ≤ Config.memSize → ∃ t, exec i s = .next t)) ∧
  (∀ s s1 : State, s.mark = none → wbStage s = .next s1 → ∀ r, memStage s1 = .fault r → step s = .fault r) ∧
  State.reset.input.oobPolicy = .ignore

/-- A load after a word store to the same address gives the stored value, whatever registers address it
(the round trip of the source's testable properties). -/
def Obligations.StoreThenLoadRoundTrip : Prop :=
  ∀ (rs1 rs2 rd rs1' : Reg) (imm imm' : Word) (s t : State), s.activity = .whole → s.mem.wf = true →
    s.input.oobPolicy = .ignore → rd ≠ 0 → s.readReg rs1 + imm = s.readReg rs1' + imm' →
    (s.readReg rs1 + imm).toNat + 4 ≤ Config.memSize →
    exec (.sw rs1 rs2 imm) s = .next t →
    ∃ u : State, exec (.lw rd rs1' imm') t = .next u ∧ u.readReg rd = s.readReg rs2

/-! ## One cycle (spec/50_pipeline.md) -/

/-- A step runs the instructions the latches hold, each in its stage and in the order WB, MEM, EX, ID, IF:
`exec` of the decoded instruction, with the log entry of the stage around it; ID may stall instead. And the
instruction a step puts into IF/ID is the decoding of the word at pc, or, at a pc that is not a multiple of
4, of what the host says such a fetch reads, with no id (the model's choice, log 9). -/
def Obligations.StepRunsDecodedInstructions : Prop :=
  (∀ (s : State) (iw im ix id : Instr), s.mark = none →
    s.cur.memwb.ins.instr = .ok iw → s.cur.exmem.ins.instr = .ok im → s.cur.idex.ins.instr = .ok ix →
    s.cur.ifid.ins.instr = .ok id →
    step s =
      andThen (exec iw ((s.record s.cur.memwb.id .WB).setActivity .wb)) fun s1 =>
      andThen (exec im ((s1.record s1.cur.exmem.id .MEM).setActivity .mem)) fun s2 =>
      andThen (exec ix ((s2.record s2.cur.idex.id .EX).setActivity .ex)) fun s3 =>
      andThen (if hazard s3.input.fwd s3.cur s3.cur.ifid.ins then .next (stallInId s3)
        else exec id (((s3.setStalled false).record s3.cur.ifid.id .ID).setActivity .id)) fun s4 =>
      andThen (ifStage s4) fun s5 => .next (commit s5)) ∧
  (∀ (s t : State) (w : Word) (i : Instr), step s = .next t → fetches s = true → s.pc.toNat % 4 = 0 →
    s.input.prog[s.pc.toNat / 4]? = some w → decode w = .ok i →
    t.cur.ifid.ins = decodeRecord w ∧ t.cur.ifid.ins.instr = .ok i ∧ t.cur.ifid.pc = s.pc) ∧
  (∀ (s t : State) (w : Option Word), step s = .next t → fetches s = true → s.pc.toNat % 4 ≠ 0 →
    s.input.misalignedFetch = .reads w → t.cur.ifid = ⟨decodeFetched w, s.pc, none⟩)

/-- R32. WB alone writes the register file, for the instruction in MEM/WB, and ID reads the file as written
in the same cycle (shown where FWD = false, where the operand latched is the file's). -/
def Obligations.WriteBeforeRead : Prop :=
  ∀ s t : State, step s = .next t →
    (∀ r : Reg, t.readReg r =
      if s.cur.memwb.ctl.regWrite = true ∧ s.cur.memwb.ins.rd = some r ∧ r ≠ 0
      then s.cur.memwb.value else s.readReg r) ∧
    (s.input.fwd = false → hazard s.input.fwd s.cur s.cur.ifid.ins = false →
      (∀ r, s.cur.ifid.ins.rs1 = some r → t.cur.idex.a = t.readReg r) ∧
      (∀ r, s.cur.ifid.ins.rs2 = some r → t.cur.idex.b = t.readReg r))

/-- R302, R303: MEM fills MEM/WB and makes the load or store of EX/MEM, with the value of MEM/WB substituted
for a store's data where FWD = true and it is rs2's. OOB_POLICY has its normative value. That bytes 4 to 7
of an SD are the draw `Config.sdHigh` of the counter `draws` is the model's choice, log 7. -/
def Obligations.CycleMemoryAccess : Prop :=
  ∀ (s t : State) (i : Instr) (x : Nat) (d : Word), Inv s → s.input.oobPolicy = .ignore →
    step s = .next t → s.cur.exmem.ins.instr = .ok i → x = s.cur.exmem.aluResult.toNat →
    d = (if s.input.fwd = true ∧ s.cur.memwb.ctl.regWrite = true ∧ s.cur.memwb.ins.rd ≠ some 0 ∧
        s.cur.memwb.ins.rd.isSome = true ∧ s.cur.memwb.ins.rd = s.cur.exmem.ins.rs2
      then s.cur.memwb.value else s.cur.exmem.storeData) →
    t.cur.memwb.ins = s.cur.exmem.ins ∧ t.cur.memwb.pc = s.cur.exmem.pc ∧
    t.cur.memwb.id = s.cur.exmem.id ∧ t.cur.memwb.ctl = s.cur.exmem.ctl ∧
    t.cur.memwb.aluResult = s.cur.exmem.aluResult ∧
    (i.loadKind = none → t.cur.memwb.memData = 0) ∧
    (∀ k, i.loadKind = some k → t.cur.memwb.memData =
      if x + k.size ≤ Config.memSize then s.mem.loadValue k x else 0) ∧
    (i.storeKind = none → t.mem = s.mem) ∧
    (∀ k, i.storeKind = some k → Config.memSize < x + k.size → t.mem = s.mem) ∧
    (∀ k, i.storeKind = some k → x + k.size ≤ Config.memSize →
      (∀ j, j < k.size → t.mem.read (x + j) =
        if j < 4 then d.extractLsb' (8 * j) 8 else (Config.sdHigh s.draws).extractLsb' (8 * (j - 4)) 8) ∧
      ∀ y, y < x ∨ x + k.size ≤ y → t.mem.read y = s.mem.read y)

/-- R304, R305. EX takes the latched operands through the mux where FWD = true, and its result is the
pipeline's own case analysis over record and signals (`exResult`). -/
def Obligations.CycleExecute : Prop :=
  ∀ (s t : State) (a b : Word), Inv s → step s = .next t →
    a = (match s.cur.idex.ins.rs1 with
      | none => s.cur.idex.a
      | some r => if s.input.fwd then forward s.cur r s.cur.idex.a else s.cur.idex.a) →
    b = (match s.cur.idex.ins.rs2 with
      | none => s.cur.idex.b
      | some r => if s.input.fwd then forward s.cur r s.cur.idex.b else s.cur.idex.b) →
    exResult s.input.divOverflow s.cur.idex.ins s.cur.idex.ctl s.cur.idex.pc a b =
      some t.cur.exmem.aluResult ∧
    t.cur.exmem.storeData = b ∧ t.cur.exmem.ins = s.cur.idex.ins ∧ t.cur.exmem.pc = s.cur.idex.pc ∧
    t.cur.exmem.id = s.cur.idex.id ∧ t.cur.exmem.ctl = s.cur.idex.ctl

/-- R314, R315. An instruction ID accepts goes to ID/EX with its signals and the operands of the register
file after this cycle's WB (which only WB writes), through the mux where FWD = true. -/
def Obligations.CycleDecode : Prop :=
  ∀ s t : State, step s = .next t → hazard s.input.fwd s.cur s.cur.ifid.ins = false →
    t.cur.idex.ins = s.cur.ifid.ins ∧ t.cur.idex.pc = s.cur.ifid.pc ∧ t.cur.idex.id = s.cur.ifid.id ∧
    t.cur.idex.ctl = control s.cur.ifid.ins ∧
    t.cur.idex.a = (match s.cur.ifid.ins.rs1 with
      | none => 0
      | some r => if s.input.fwd then forward s.cur r (t.readReg r) else t.readReg r) ∧
    t.cur.idex.b = (match s.cur.ifid.ins.rs2 with
      | none => 0
      | some r => if s.input.fwd then forward s.cur r (t.readReg r) else t.readReg r) ∧
    (∀ id, s.cur.ifid.id = some id → StageName.ID ∈ logCell t.log id s.cycle)

/-- R312, R343. A stall: a bubble, IF/ID and pc held, "-" in the log where the cell holds nothing else; the
instruction is decoded again in the next cycle, and whether it is supported is not asked. -/
def Obligations.StalledCycle : Prop :=
  ∀ s : State, Inv s → s.mark = none → hazard s.input.fwd s.cur s.cur.ifid.ins = true →
    (∀ r, step s ≠ .refused r) ∧
    ∀ t : State, step s = .next t →
      t.cur.idex = IdEx.empty ∧ t.cur.ifid = s.cur.ifid ∧ t.pc = s.pc ∧
      (∀ id, s.cur.ifid.id = some id → s.cur.memwb.id ≠ some id → s.cur.exmem.id ≠ some id →
        s.cur.idex.id ≠ some id → logCell t.log id s.cycle = [.dash])

/-- R36. pc after a cycle: the redirect target, or held by a stall, or 4 on; modulo 2^32. -/
def Obligations.PcAfterACycle : Prop :=
  ∀ s t : State, step s = .next t →
    t.pc = if hazard s.input.fwd s.cur s.cur.ifid.ins then s.pc
      else (redirectOf s.cur.ifid.ins s.cur.ifid.pc t.cur.idex.a t.cur.idex.b).getD (s.pc + 4)

/-- R260, R316. What resolution in ID does, for every branch and jump, taken or not: the target replaces the
advance of pc, the fetch is squashed, the instruction goes on into ID/EX, and the next cycle fetches at the
target. -/
def Obligations.ResolutionInDecode : Prop :=
  ∀ (s t : State) (target : Word), step s = .next t →
    hazard s.input.fwd s.cur s.cur.ifid.ins = false →
    redirectOf s.cur.ifid.ins s.cur.ifid.pc t.cur.idex.a t.cur.idex.b = some target →
    t.pc = target ∧ t.cur.ifid = IfId.empty ∧ t.cur.idex.ins = s.cur.ifid.ins ∧
    t.cur.idex.ctl = control s.cur.ifid.ins ∧
    ∀ u : State, step t = .next u → u.cur.ifid.pc = target ∧
      (target.toNat % 4 = 0 → u.cur.ifid.ins = decodeFetched (t.input.prog[target.toNat / 4]?))

/-- R341. A fetch past PROG is a NOP with no id, as is a zero word, and any other word carries its index. -/
def Obligations.FetchAtPc : Prop :=
  ∀ s t : State, step s = .next t → fetches s = true → s.pc.toNat % 4 = 0 →
    t.cur.ifid.pc = s.pc ∧
    (s.input.prog.length ≤ s.pc.toNat / 4 → t.cur.ifid.ins = nopRecord ∧ t.cur.ifid.id = none) ∧
    (∀ w, s.input.prog[s.pc.toNat / 4]? = some w →
      t.cur.ifid.ins = decodeRecord w ∧ (w = 0 → t.cur.ifid.id = none) ∧
      (w ≠ 0 → t.cur.ifid.id = some (s.pc.toNat / 4)))

/-- R353, R383. Which outcome a cycle has, in stage order, and what it carries; a cycle that ends in one
changes nothing but the mark. -/
def Obligations.CycleOutcomesInOrder : Prop :=
  ∀ s : State, Inv s → s.mark = none →
    (faultsInMem s →
      step s = .fault (.outOfRange ⟨s.cycle, s.cur.exmem.pc, some s.cur.exmem.ins.raw⟩)) ∧
    (¬faultsInMem s → faultsInEx s →
      step s = .fault (.divOverflow ⟨s.cycle, s.cur.idex.pc, some s.cur.idex.ins.raw⟩)) ∧
    (¬faultsInMem s → ¬faultsInEx s → refusedInId s →
      step s = .refused (.unsupported ⟨s.cycle, s.cur.ifid.pc, some s.cur.ifid.ins.raw⟩)) ∧
    (¬faultsInMem s → ¬faultsInEx s → ¬refusedInId s → faultsInIf s →
      step s = .fault (.misalignedFetch ⟨s.cycle, s.pc, none⟩)) ∧
    (¬faultsInMem s → ¬faultsInEx s → ¬refusedInId s → ¬faultsInIf s → ∃ t, step s = .next t) ∧
    (∀ t, step s = .next t → runCycle s = t) ∧
    (∀ r, step s = .fault r → runCycle s = { s with mark := some (.fault r) }) ∧
    (∀ r, step s = .refused r → runCycle s = { s with mark := some (.refused r) })

/-- R52. The mark is none at construction, set by an outcome, and never cleared; once it is set no further
cycle is performed. -/
def Obligations.MarkIsSticky : Prop :=
  (∀ (input : Inputs) (regs : Regs) (mem : List Byte), (State.construct input regs mem).mark = none) ∧
  (∀ (s : State) (r : Fault), step s = .fault r → (runCycle s).mark = some (.fault r)) ∧
  (∀ (s : State) (r : Refusal), step s = .refused r → (runCycle s).mark = some (.refused r)) ∧
  (∀ s t : State, step s = .next t → t.mark = none) ∧
  (∀ (s : State) (k : Nat), s.mark ≠ none → runCycles k s = s) ∧
  (∀ (s : State) (k : Nat), (runCycles k s).mark = none → s.mark = none)

/-- R51 and the length of a run: 0 at construction, one count for each commit, k after k cycles, and T
cycles in a run with no outcome. -/
def Obligations.RunIsTotalCyclesLong : Prop :=
  (∀ s t : State, step s = .next t → t.cycle = s.cycle + 1) ∧
  (∀ (input : Inputs) (regs : Regs) (mem : List Byte) (k : Nat),
    (runCycles k (State.construct input regs mem)).mark = none →
    (runCycles k (State.construct input regs mem)).cycle = k) ∧
  (∀ s : State, (run s).mark = none → (run s).cycle = s.cycle + s.input.totalCycles)

/-- The construction inputs, PROG among them, are the same after any number of cycles, so no store reaches
the instruction store. -/
def Obligations.InputsNeverChange : Prop :=
  ∀ (s : State) (k : Nat), (runCycles k s).input = s.input

/-- R360. The cells of the current cycle after a step: each stage name stands exactly in the cell of the
instruction its stage processed, and "-" where a stalled instruction has no other name. -/
def Obligations.CycleRecordsStages : Prop :=
  ∀ (s t : State) (id : Nat), Inv s → step s = .next t →
    (StageName.WB ∈ logCell t.log id s.cycle ↔ s.cur.memwb.id = some id) ∧
    (StageName.MEM ∈ logCell t.log id s.cycle ↔ s.cur.exmem.id = some id) ∧
    (StageName.EX ∈ logCell t.log id s.cycle ↔ s.cur.idex.id = some id) ∧
    (StageName.ID ∈ logCell t.log id s.cycle ↔
      hazard s.input.fwd s.cur s.cur.ifid.ins = false ∧ s.cur.ifid.id = some id) ∧
    (StageName.IF ∈ logCell t.log id s.cycle ↔ fetches s = true ∧ t.cur.ifid.id = some id) ∧
    (StageName.dash ∈ logCell t.log id s.cycle ↔
      hazard s.input.fwd s.cur s.cur.ifid.ins = true ∧ s.cur.ifid.id = some id ∧
      s.cur.memwb.id ≠ some id ∧ s.cur.exmem.id ≠ some id ∧ s.cur.idex.id ≠ some id)

/-- R361. "-" stands alone in its cell, goes only into an empty one, and gives way to a real name; a real
name is never removed. -/
def Obligations.DashStandsAlone : Prop :=
  (∀ (log : List LogEntry) (id cycle : Nat), logCell log id cycle ≠ [] →
    logAdd log id cycle .dash = log) ∧
  (∀ (log : List LogEntry) (id cycle : Nat) (n : StageName), n ≠ .dash →
    n ∈ logCell (logAdd log id cycle n) id cycle ∧ .dash ∉ logCell (logAdd log id cycle n) id cycle ∧
    ∀ m ∈ logCell log id cycle, m ≠ .dash → m ∈ logCell (logAdd log id cycle n) id cycle) ∧
  (∀ s t : State, dashAlone s.log → step s = .next t → dashAlone t.log)

/-- Cells of other cycles than the current one are neither written nor cleared. -/
def Obligations.OtherCyclesKeepTheirCells : Prop :=
  ∀ (s t : State) (id c : Nat), step s = .next t → c ≠ s.cycle →
    logCell t.log id c = logCell s.log id c

/-- R334. Register x0 is never forwarded, and a producer of x0 neither stalls nor forwards. -/
def Obligations.X0NeverStallsOrForwards : Prop :=
  (∀ (c : Latches) (v : Word), forward c 0 v = 0) ∧
  (∀ (ctl : Control) (ins : Record) (r : Reg), ins.rd = some 0 → produces ctl ins r = false) ∧
  (∀ (fwd : Bool) (c : Latches) (ins : Record), (∀ r ∈ ins.sources, r = 0) → hazard fwd c ins = false) ∧
  (∀ (fwd : Bool) (c : Latches) (ins : Record), c.idex.ins.rd = some 0 → c.exmem.ins.rd = some 0 →
    hazard fwd c ins = false) ∧
  (∀ (c : Latches) (r : Reg) (v : Word), c.exmem.ins.rd = some 0 → c.memwb.ins.rd = some 0 → r ≠ 0 →
    forward c r v = v)

/-- The MEM/WB arm of the mux in ID always agrees with the register file after this cycle's WB (R335): where
MEM/WB produces r and no non-load in EX/MEM does, the mux gives what the file holds, whatever it is given. -/
def Obligations.MemWbArmAgreesWithRegisterFile : Prop :=
  ∀ (s t : State) (r : Reg) (v : Word), step s = .next t → r ≠ 0 →
    s.cur.memwb.ctl.regWrite = true → s.cur.memwb.ins.rd = some r →
    ¬(s.cur.exmem.ctl.regWrite = true ∧ s.cur.exmem.ins.rd = some r ∧ s.cur.exmem.ctl.memRead = false) →
    forward s.cur r v = t.readReg r ∧ t.readReg r = s.cur.memwb.value

/-- A stall lasts at most two cycles: after two in a row the same instruction is accepted. -/
def Obligations.NoThirdStallInARow : Prop :=
  ∀ s t u : State, step s = .next t → step t = .next u →
    hazard s.input.fwd s.cur s.cur.ifid.ins = true → hazard t.input.fwd t.cur t.cur.ifid.ins = true →
    u.cur.ifid = s.cur.ifid ∧ hazard u.input.fwd u.cur u.cur.ifid.ins = false

/-- R330, R331, R332. Exactly when ID stalls. FWD = false: a source other than x0 is the destination of a
producer in ID/EX or EX/MEM. FWD = true: of a load in ID/EX, and for a B-type (opcode 0x63) or JALR (0x67)
also of any producer in ID/EX or of a load in EX/MEM. So forwarding hides a non-load from every other
consumer, and a non-load in EX/MEM from all. -/
def Obligations.StallsExactlyBehindTheseProducers : Prop :=
  (∀ (c : Latches) (ins : Record), hazard false c ins = true ↔
    ∃ r ∈ ins.sources, r ≠ 0 ∧
      ((c.idex.ctl.regWrite = true ∧ c.idex.ins.rd = some r) ∨
        (c.exmem.ctl.regWrite = true ∧ c.exmem.ins.rd = some r))) ∧
  (∀ (c : Latches) (ins : Record), hazard true c ins = true ↔
    ∃ r ∈ ins.sources, r ≠ 0 ∧
      ((c.idex.ctl.memRead = true ∧ c.idex.ctl.regWrite = true ∧ c.idex.ins.rd = some r) ∨
        ((ins.opcode = 0x63 ∨ ins.opcode = 0x67) ∧
          ((c.idex.ctl.regWrite = true ∧ c.idex.ins.rd = some r) ∨
            (c.exmem.ctl.memRead = true ∧ c.exmem.ctl.regWrite = true ∧ c.exmem.ins.rd = some r))))) ∧
  (∀ (c : Latches) (ins : Record), c.idex.ctl.memRead = false → ins.opcode ≠ 0x63 → ins.opcode ≠ 0x67 →
    hazard true c ins = false)

/-! ## Reset and the invariant (spec/70_reset_and_hazards.md) -/

/-- R410. The state after construction from any inputs. -/
def Obligations.ConstructionLeaves : Prop :=
  ∀ (input : Inputs) (regs : Regs) (mem : List Byte) (s : State), s = State.construct input regs mem →
    s.readReg 0 = 0 ∧ (∀ r : Reg, r ≠ 0 → s.readReg r = regs[r.toNat]'r.isLt) ∧ s.pc = 0 ∧
    (∀ a, a < Config.memSize → ∀ h : a < mem.length, s.mem.read a = mem[a]'h) ∧
    s.input = input ∧
    s.cur.ifid = ⟨nopRecord, 0, none⟩ ∧
    s.cur.idex = ⟨nopRecord, 0, none, ⟨false, false, false, false, none⟩, 0, 0⟩ ∧
    s.cur.exmem = ⟨nopRecord, 0, none, ⟨false, false, false, false, none⟩, 0, 0⟩ ∧
    s.cur.memwb = ⟨nopRecord, 0, none, ⟨false, false, false, false, none⟩, 0, 0⟩ ∧
    s.cycle = 0 ∧ s.mark = none ∧ ∀ id c, logCell s.log id c = []

/-- The invariant holds at `State.reset`. -/
def Obligations.ResetMeetsInvariant : Prop := Inv State.reset

/-- The invariant holds after construction from any inputs. -/
def Obligations.ConstructionMeetsInvariant : Prop :=
  ∀ (input : Inputs) (regs : Regs) (mem : List Byte), Inv (State.construct input regs mem)

/-- Every cycle keeps the invariant. -/
def Obligations.StepKeepsInvariant : Prop :=
  ∀ s t : State, Inv s → step s = .next t → Inv t

/-! ## The pipeline and the sequential reading (R338) -/

/-- An instruction alone in the pipeline: five cycles from its fetch it has done exactly what `exec` of the
whole instruction does. PROG is NOPs up to it and nothing after it. A JALR that jumps to itself is executed
again from its own link within the five cycles, so that its second target may be a fetch that faults; where
the five cycles complete, it too has done what `exec` does. -/
def Obligations.InstructionRetiredAlone : Prop :=
  ∀ (s e : State) (k : Nat) (w : Word) (i : Instr), s.cur = Latches.empty → s.mark = none →
    s.activity = .whole → 4 * k < 2 ^ 32 → s.pc = BitVec.ofNat 32 (4 * k) →
    s.input.prog = List.replicate k 0 ++ [w] → decode w = .ok i →
    exec i s = .next e → e.pc.toNat % 4 = 0 →
    ((∀ rd rs1 imm, i = .jalr rd rs1 imm → e.pc ≠ s.pc) →
      ∃ t : State, Host.Core.run Sys2Proof.core 5 s = .next t) ∧
    ∀ t : State, Host.Core.run Sys2Proof.core 5 s = .next t →
      t.regs = e.regs ∧ t.mem = e.mem ∧ t.draws = e.draws

/-- R338, as a commuting diagram over every state that meets the invariant, in both modes: draining the
pipeline after a cycle is draining it before the cycle and then executing one whole instruction of PROG, or
none where the cycle fetched nothing. -/
def Obligations.PipelineMatchesSequentialReading : Prop :=
  ∀ s t t' : State, Inv s → step s = .next t → drain 6 t = .next t' →
    ∃ s' : State, drain 6 s = .next s' ∧
      (fetches s = true → ∃ e : State, seqStep s' = .next e ∧ e.arch = t'.arch) ∧
      (fetches s = false → s'.arch = t'.arch)

/-- A word that `withFetchWord` places is fetched and run by the very next step (the model's own, log 4): the
step writes the registers, the memory and the draws, and, but for a JALR through its own destination, the pc
that `exec` of the whole instruction gives, and, unless it redirects, fetches the word. Left out: a DIV whose
destination is a source, where DIV_OVERFLOW is a fault and the forwarded quotient may meet the open pair. -/
def Obligations.PlacedWordRunsInTheNextStep : Prop :=
  ∀ (s e : State) (w : Word) (i : Instr), s.activity = .whole → decode w = .ok i →
    exec i (s.withFetchWord 32 w.toNat) = .next e →
    (s.input.divOverflow = .fault → ∀ rd rs1 rs2, i = .div rd rs1 rs2 → rd ≠ 0 → rd ≠ rs1 ∧ rd ≠ rs2) →
    ∃ t : State, step (s.withFetchWord 32 w.toNat) = .next t ∧
      t.regs = e.regs ∧ t.mem = e.mem ∧ t.draws = e.draws ∧
      ((∀ rd imm, i = .jalr rd rd imm → rd = 0) → t.pc = e.pc) ∧
      (redirects (decodeRecord w) = false → t.cur.ifid.ins = decodeRecord w)
end

