-- ==== Sys2Proof/Laws/State.lean ====
section
/-! SUPPORT. One lemma for each field of State and each update of Machine/Ops.lean and of the stages, so that
no later proof unfolds a record update. -/

namespace Sys2Proof.Machine

@[simp] theorem State.setPc_input (s : State) (v : Word) : (s.setPc v).input = s.input := rfl
@[simp] theorem State.setPc_regs (s : State) (v : Word) : (s.setPc v).regs = s.regs := rfl
@[simp] theorem State.setPc_pc (s : State) (v : Word) : (s.setPc v).pc = v := rfl
@[simp] theorem State.setPc_mem (s : State) (v : Word) : (s.setPc v).mem = s.mem := rfl
@[simp] theorem State.setPc_cur (s : State) (v : Word) : (s.setPc v).cur = s.cur := rfl
@[simp] theorem State.setPc_nxt (s : State) (v : Word) : (s.setPc v).nxt = s.nxt := rfl
@[simp] theorem State.setPc_stalled (s : State) (v : Word) : (s.setPc v).stalled = s.stalled := rfl
@[simp] theorem State.setPc_redirect (s : State) (v : Word) : (s.setPc v).redirect = s.redirect := rfl
@[simp] theorem State.setPc_cycle (s : State) (v : Word) : (s.setPc v).cycle = s.cycle := rfl
@[simp] theorem State.setPc_mark (s : State) (v : Word) : (s.setPc v).mark = s.mark := rfl
@[simp] theorem State.setPc_log (s : State) (v : Word) : (s.setPc v).log = s.log := rfl
@[simp] theorem State.setPc_activity (s : State) (v : Word) : (s.setPc v).activity = s.activity := rfl
@[simp] theorem State.setPc_draws (s : State) (v : Word) : (s.setPc v).draws = s.draws := rfl

@[simp] theorem State.setStalled_input (s : State) (v : Bool) : (s.setStalled v).input = s.input := rfl
@[simp] theorem State.setStalled_regs (s : State) (v : Bool) : (s.setStalled v).regs = s.regs := rfl
@[simp] theorem State.setStalled_pc (s : State) (v : Bool) : (s.setStalled v).pc = s.pc := rfl
@[simp] theorem State.setStalled_mem (s : State) (v : Bool) : (s.setStalled v).mem = s.mem := rfl
@[simp] theorem State.setStalled_cur (s : State) (v : Bool) : (s.setStalled v).cur = s.cur := rfl
@[simp] theorem State.setStalled_nxt (s : State) (v : Bool) : (s.setStalled v).nxt = s.nxt := rfl
@[simp] theorem State.setStalled_stalled (s : State) (v : Bool) : (s.setStalled v).stalled = v := rfl
@[simp] theorem State.setStalled_redirect (s : State) (v : Bool) : (s.setStalled v).redirect = s.redirect := rfl
@[simp] theorem State.setStalled_cycle (s : State) (v : Bool) : (s.setStalled v).cycle = s.cycle := rfl
@[simp] theorem State.setStalled_mark (s : State) (v : Bool) : (s.setStalled v).mark = s.mark := rfl
@[simp] theorem State.setStalled_log (s : State) (v : Bool) : (s.setStalled v).log = s.log := rfl
@[simp] theorem State.setStalled_activity (s : State) (v : Bool) : (s.setStalled v).activity = s.activity := rfl
@[simp] theorem State.setStalled_draws (s : State) (v : Bool) : (s.setStalled v).draws = s.draws := rfl

@[simp] theorem State.setRedirect_input (s : State) (v : Option Word) : (s.setRedirect v).input = s.input := rfl
@[simp] theorem State.setRedirect_regs (s : State) (v : Option Word) : (s.setRedirect v).regs = s.regs := rfl
@[simp] theorem State.setRedirect_pc (s : State) (v : Option Word) : (s.setRedirect v).pc = s.pc := rfl
@[simp] theorem State.setRedirect_mem (s : State) (v : Option Word) : (s.setRedirect v).mem = s.mem := rfl
@[simp] theorem State.setRedirect_cur (s : State) (v : Option Word) : (s.setRedirect v).cur = s.cur := rfl
@[simp] theorem State.setRedirect_nxt (s : State) (v : Option Word) : (s.setRedirect v).nxt = s.nxt := rfl
@[simp] theorem State.setRedirect_stalled (s : State) (v : Option Word) : (s.setRedirect v).stalled = s.stalled := rfl
@[simp] theorem State.setRedirect_redirect (s : State) (v : Option Word) : (s.setRedirect v).redirect = v := rfl
@[simp] theorem State.setRedirect_cycle (s : State) (v : Option Word) : (s.setRedirect v).cycle = s.cycle := rfl
@[simp] theorem State.setRedirect_mark (s : State) (v : Option Word) : (s.setRedirect v).mark = s.mark := rfl
@[simp] theorem State.setRedirect_log (s : State) (v : Option Word) : (s.setRedirect v).log = s.log := rfl
@[simp] theorem State.setRedirect_activity (s : State) (v : Option Word) : (s.setRedirect v).activity = s.activity := rfl
@[simp] theorem State.setRedirect_draws (s : State) (v : Option Word) : (s.setRedirect v).draws = s.draws := rfl

@[simp] theorem State.setActivity_input (s : State) (v : Activity) : (s.setActivity v).input = s.input := rfl
@[simp] theorem State.setActivity_regs (s : State) (v : Activity) : (s.setActivity v).regs = s.regs := rfl
@[simp] theorem State.setActivity_pc (s : State) (v : Activity) : (s.setActivity v).pc = s.pc := rfl
@[simp] theorem State.setActivity_mem (s : State) (v : Activity) : (s.setActivity v).mem = s.mem := rfl
@[simp] theorem State.setActivity_cur (s : State) (v : Activity) : (s.setActivity v).cur = s.cur := rfl
@[simp] theorem State.setActivity_nxt (s : State) (v : Activity) : (s.setActivity v).nxt = s.nxt := rfl
@[simp] theorem State.setActivity_stalled (s : State) (v : Activity) : (s.setActivity v).stalled = s.stalled := rfl
@[simp] theorem State.setActivity_redirect (s : State) (v : Activity) : (s.setActivity v).redirect = s.redirect := rfl
@[simp] theorem State.setActivity_cycle (s : State) (v : Activity) : (s.setActivity v).cycle = s.cycle := rfl
@[simp] theorem State.setActivity_mark (s : State) (v : Activity) : (s.setActivity v).mark = s.mark := rfl
@[simp] theorem State.setActivity_log (s : State) (v : Activity) : (s.setActivity v).log = s.log := rfl
@[simp] theorem State.setActivity_activity (s : State) (v : Activity) : (s.setActivity v).activity = v := rfl
@[simp] theorem State.setActivity_draws (s : State) (v : Activity) : (s.setActivity v).draws = s.draws := rfl

@[simp] theorem State.setMem_input (s : State) (m : Memory) : (s.setMem m).input = s.input := rfl
@[simp] theorem State.setMem_regs (s : State) (m : Memory) : (s.setMem m).regs = s.regs := rfl
@[simp] theorem State.setMem_pc (s : State) (m : Memory) : (s.setMem m).pc = s.pc := rfl
@[simp] theorem State.setMem_mem (s : State) (m : Memory) : (s.setMem m).mem = m := rfl
@[simp] theorem State.setMem_cur (s : State) (m : Memory) : (s.setMem m).cur = s.cur := rfl
@[simp] theorem State.setMem_nxt (s : State) (m : Memory) : (s.setMem m).nxt = s.nxt := rfl
@[simp] theorem State.setMem_stalled (s : State) (m : Memory) : (s.setMem m).stalled = s.stalled := rfl
@[simp] theorem State.setMem_redirect (s : State) (m : Memory) : (s.setMem m).redirect = s.redirect := rfl
@[simp] theorem State.setMem_cycle (s : State) (m : Memory) : (s.setMem m).cycle = s.cycle := rfl
@[simp] theorem State.setMem_mark (s : State) (m : Memory) : (s.setMem m).mark = s.mark := rfl
@[simp] theorem State.setMem_log (s : State) (m : Memory) : (s.setMem m).log = s.log := rfl
@[simp] theorem State.setMem_activity (s : State) (m : Memory) : (s.setMem m).activity = s.activity := rfl
@[simp] theorem State.setMem_draws (s : State) (m : Memory) : (s.setMem m).draws = s.draws := rfl

@[simp] theorem State.setIfid_input (s : State) (l : IfId) : (s.setIfid l).input = s.input := rfl
@[simp] theorem State.setIfid_regs (s : State) (l : IfId) : (s.setIfid l).regs = s.regs := rfl
@[simp] theorem State.setIfid_pc (s : State) (l : IfId) : (s.setIfid l).pc = s.pc := rfl
@[simp] theorem State.setIfid_mem (s : State) (l : IfId) : (s.setIfid l).mem = s.mem := rfl
@[simp] theorem State.setIfid_cur (s : State) (l : IfId) : (s.setIfid l).cur = s.cur := rfl
@[simp] theorem State.setIfid_nxt (s : State) (l : IfId) : (s.setIfid l).nxt = { s.nxt with ifid := l } := rfl
@[simp] theorem State.setIfid_stalled (s : State) (l : IfId) : (s.setIfid l).stalled = s.stalled := rfl
@[simp] theorem State.setIfid_redirect (s : State) (l : IfId) : (s.setIfid l).redirect = s.redirect := rfl
@[simp] theorem State.setIfid_cycle (s : State) (l : IfId) : (s.setIfid l).cycle = s.cycle := rfl
@[simp] theorem State.setIfid_mark (s : State) (l : IfId) : (s.setIfid l).mark = s.mark := rfl
@[simp] theorem State.setIfid_log (s : State) (l : IfId) : (s.setIfid l).log = s.log := rfl
@[simp] theorem State.setIfid_activity (s : State) (l : IfId) : (s.setIfid l).activity = s.activity := rfl
@[simp] theorem State.setIfid_draws (s : State) (l : IfId) : (s.setIfid l).draws = s.draws := rfl

@[simp] theorem State.setIdex_input (s : State) (l : IdEx) : (s.setIdex l).input = s.input := rfl
@[simp] theorem State.setIdex_regs (s : State) (l : IdEx) : (s.setIdex l).regs = s.regs := rfl
@[simp] theorem State.setIdex_pc (s : State) (l : IdEx) : (s.setIdex l).pc = s.pc := rfl
@[simp] theorem State.setIdex_mem (s : State) (l : IdEx) : (s.setIdex l).mem = s.mem := rfl
@[simp] theorem State.setIdex_cur (s : State) (l : IdEx) : (s.setIdex l).cur = s.cur := rfl
@[simp] theorem State.setIdex_nxt (s : State) (l : IdEx) : (s.setIdex l).nxt = { s.nxt with idex := l } := rfl
@[simp] theorem State.setIdex_stalled (s : State) (l : IdEx) : (s.setIdex l).stalled = s.stalled := rfl
@[simp] theorem State.setIdex_redirect (s : State) (l : IdEx) : (s.setIdex l).redirect = s.redirect := rfl
@[simp] theorem State.setIdex_cycle (s : State) (l : IdEx) : (s.setIdex l).cycle = s.cycle := rfl
@[simp] theorem State.setIdex_mark (s : State) (l : IdEx) : (s.setIdex l).mark = s.mark := rfl
@[simp] theorem State.setIdex_log (s : State) (l : IdEx) : (s.setIdex l).log = s.log := rfl
@[simp] theorem State.setIdex_activity (s : State) (l : IdEx) : (s.setIdex l).activity = s.activity := rfl
@[simp] theorem State.setIdex_draws (s : State) (l : IdEx) : (s.setIdex l).draws = s.draws := rfl

@[simp] theorem State.setExmem_input (s : State) (l : ExMem) : (s.setExmem l).input = s.input := rfl
@[simp] theorem State.setExmem_regs (s : State) (l : ExMem) : (s.setExmem l).regs = s.regs := rfl
@[simp] theorem State.setExmem_pc (s : State) (l : ExMem) : (s.setExmem l).pc = s.pc := rfl
@[simp] theorem State.setExmem_mem (s : State) (l : ExMem) : (s.setExmem l).mem = s.mem := rfl
@[simp] theorem State.setExmem_cur (s : State) (l : ExMem) : (s.setExmem l).cur = s.cur := rfl
@[simp] theorem State.setExmem_nxt (s : State) (l : ExMem) : (s.setExmem l).nxt = { s.nxt with exmem := l } := rfl
@[simp] theorem State.setExmem_stalled (s : State) (l : ExMem) : (s.setExmem l).stalled = s.stalled := rfl
@[simp] theorem State.setExmem_redirect (s : State) (l : ExMem) : (s.setExmem l).redirect = s.redirect := rfl
@[simp] theorem State.setExmem_cycle (s : State) (l : ExMem) : (s.setExmem l).cycle = s.cycle := rfl
@[simp] theorem State.setExmem_mark (s : State) (l : ExMem) : (s.setExmem l).mark = s.mark := rfl
@[simp] theorem State.setExmem_log (s : State) (l : ExMem) : (s.setExmem l).log = s.log := rfl
@[simp] theorem State.setExmem_activity (s : State) (l : ExMem) : (s.setExmem l).activity = s.activity := rfl
@[simp] theorem State.setExmem_draws (s : State) (l : ExMem) : (s.setExmem l).draws = s.draws := rfl

@[simp] theorem State.setMemwb_input (s : State) (l : MemWb) : (s.setMemwb l).input = s.input := rfl
@[simp] theorem State.setMemwb_regs (s : State) (l : MemWb) : (s.setMemwb l).regs = s.regs := rfl
@[simp] theorem State.setMemwb_pc (s : State) (l : MemWb) : (s.setMemwb l).pc = s.pc := rfl
@[simp] theorem State.setMemwb_mem (s : State) (l : MemWb) : (s.setMemwb l).mem = s.mem := rfl
@[simp] theorem State.setMemwb_cur (s : State) (l : MemWb) : (s.setMemwb l).cur = s.cur := rfl
@[simp] theorem State.setMemwb_nxt (s : State) (l : MemWb) : (s.setMemwb l).nxt = { s.nxt with memwb := l } := rfl
@[simp] theorem State.setMemwb_stalled (s : State) (l : MemWb) : (s.setMemwb l).stalled = s.stalled := rfl
@[simp] theorem State.setMemwb_redirect (s : State) (l : MemWb) : (s.setMemwb l).redirect = s.redirect := rfl
@[simp] theorem State.setMemwb_cycle (s : State) (l : MemWb) : (s.setMemwb l).cycle = s.cycle := rfl
@[simp] theorem State.setMemwb_mark (s : State) (l : MemWb) : (s.setMemwb l).mark = s.mark := rfl
@[simp] theorem State.setMemwb_log (s : State) (l : MemWb) : (s.setMemwb l).log = s.log := rfl
@[simp] theorem State.setMemwb_activity (s : State) (l : MemWb) : (s.setMemwb l).activity = s.activity := rfl
@[simp] theorem State.setMemwb_draws (s : State) (l : MemWb) : (s.setMemwb l).draws = s.draws := rfl

@[simp] theorem State.writeReg_input (s : State) (r : Reg) (v : Word) : (s.writeReg r v).input = s.input := by
  unfold State.writeReg; split <;> rfl
@[simp] theorem State.writeReg_pc (s : State) (r : Reg) (v : Word) : (s.writeReg r v).pc = s.pc := by
  unfold State.writeReg; split <;> rfl
@[simp] theorem State.writeReg_mem (s : State) (r : Reg) (v : Word) : (s.writeReg r v).mem = s.mem := by
  unfold State.writeReg; split <;> rfl
@[simp] theorem State.writeReg_cur (s : State) (r : Reg) (v : Word) : (s.writeReg r v).cur = s.cur := by
  unfold State.writeReg; split <;> rfl
@[simp] theorem State.writeReg_nxt (s : State) (r : Reg) (v : Word) : (s.writeReg r v).nxt = s.nxt := by
  unfold State.writeReg; split <;> rfl
@[simp] theorem State.writeReg_stalled (s : State) (r : Reg) (v : Word) : (s.writeReg r v).stalled = s.stalled := by
  unfold State.writeReg; split <;> rfl
@[simp] theorem State.writeReg_redirect (s : State) (r : Reg) (v : Word) : (s.writeReg r v).redirect = s.redirect := by
  unfold State.writeReg; split <;> rfl
@[simp] theorem State.writeReg_cycle (s : State) (r : Reg) (v : Word) : (s.writeReg r v).cycle = s.cycle := by
  unfold State.writeReg; split <;> rfl
@[simp] theorem State.writeReg_mark (s : State) (r : Reg) (v : Word) : (s.writeReg r v).mark = s.mark := by
  unfold State.writeReg; split <;> rfl
@[simp] theorem State.writeReg_log (s : State) (r : Reg) (v : Word) : (s.writeReg r v).log = s.log := by
  unfold State.writeReg; split <;> rfl
@[simp] theorem State.writeReg_activity (s : State) (r : Reg) (v : Word) : (s.writeReg r v).activity = s.activity := by
  unfold State.writeReg; split <;> rfl
@[simp] theorem State.writeReg_draws (s : State) (r : Reg) (v : Word) : (s.writeReg r v).draws = s.draws := by
  unfold State.writeReg; split <;> rfl

@[simp] theorem State.writeDest_input (s : State) (r : Option Reg) (v : Word) : (s.writeDest r v).input = s.input := by
  cases r <;> simp [State.writeDest]
@[simp] theorem State.writeDest_pc (s : State) (r : Option Reg) (v : Word) : (s.writeDest r v).pc = s.pc := by
  cases r <;> simp [State.writeDest]
@[simp] theorem State.writeDest_mem (s : State) (r : Option Reg) (v : Word) : (s.writeDest r v).mem = s.mem := by
  cases r <;> simp [State.writeDest]
@[simp] theorem State.writeDest_cur (s : State) (r : Option Reg) (v : Word) : (s.writeDest r v).cur = s.cur := by
  cases r <;> simp [State.writeDest]
@[simp] theorem State.writeDest_nxt (s : State) (r : Option Reg) (v : Word) : (s.writeDest r v).nxt = s.nxt := by
  cases r <;> simp [State.writeDest]
@[simp] theorem State.writeDest_stalled (s : State) (r : Option Reg) (v : Word) : (s.writeDest r v).stalled = s.stalled := by
  cases r <;> simp [State.writeDest]
@[simp] theorem State.writeDest_redirect (s : State) (r : Option Reg) (v : Word) : (s.writeDest r v).redirect = s.redirect := by
  cases r <;> simp [State.writeDest]
@[simp] theorem State.writeDest_cycle (s : State) (r : Option Reg) (v : Word) : (s.writeDest r v).cycle = s.cycle := by
  cases r <;> simp [State.writeDest]
@[simp] theorem State.writeDest_mark (s : State) (r : Option Reg) (v : Word) : (s.writeDest r v).mark = s.mark := by
  cases r <;> simp [State.writeDest]
@[simp] theorem State.writeDest_log (s : State) (r : Option Reg) (v : Word) : (s.writeDest r v).log = s.log := by
  cases r <;> simp [State.writeDest]
@[simp] theorem State.writeDest_activity (s : State) (r : Option Reg) (v : Word) : (s.writeDest r v).activity = s.activity := by
  cases r <;> simp [State.writeDest]
@[simp] theorem State.writeDest_draws (s : State) (r : Option Reg) (v : Word) : (s.writeDest r v).draws = s.draws := by
  cases r <;> simp [State.writeDest]

@[simp] theorem State.record_input (s : State) (id : Option Nat) (n : StageName) : (s.record id n).input = s.input := by
  cases id <;> rfl
@[simp] theorem State.record_regs (s : State) (id : Option Nat) (n : StageName) : (s.record id n).regs = s.regs := by
  cases id <;> rfl
@[simp] theorem State.record_pc (s : State) (id : Option Nat) (n : StageName) : (s.record id n).pc = s.pc := by
  cases id <;> rfl
@[simp] theorem State.record_mem (s : State) (id : Option Nat) (n : StageName) : (s.record id n).mem = s.mem := by
  cases id <;> rfl
@[simp] theorem State.record_cur (s : State) (id : Option Nat) (n : StageName) : (s.record id n).cur = s.cur := by
  cases id <;> rfl
@[simp] theorem State.record_nxt (s : State) (id : Option Nat) (n : StageName) : (s.record id n).nxt = s.nxt := by
  cases id <;> rfl
@[simp] theorem State.record_stalled (s : State) (id : Option Nat) (n : StageName) : (s.record id n).stalled = s.stalled := by
  cases id <;> rfl
@[simp] theorem State.record_redirect (s : State) (id : Option Nat) (n : StageName) : (s.record id n).redirect = s.redirect := by
  cases id <;> rfl
@[simp] theorem State.record_cycle (s : State) (id : Option Nat) (n : StageName) : (s.record id n).cycle = s.cycle := by
  cases id <;> rfl
@[simp] theorem State.record_mark (s : State) (id : Option Nat) (n : StageName) : (s.record id n).mark = s.mark := by
  cases id <;> rfl
@[simp] theorem State.record_activity (s : State) (id : Option Nat) (n : StageName) : (s.record id n).activity = s.activity := by
  cases id <;> rfl
@[simp] theorem State.record_draws (s : State) (id : Option Nat) (n : StageName) : (s.record id n).draws = s.draws := by
  cases id <;> rfl

@[simp] theorem State.afterDraw_input (s : State) (k : StoreKind) : (s.afterDraw k).input = s.input := by
  cases k <;> rfl
@[simp] theorem State.afterDraw_regs (s : State) (k : StoreKind) : (s.afterDraw k).regs = s.regs := by
  cases k <;> rfl
@[simp] theorem State.afterDraw_pc (s : State) (k : StoreKind) : (s.afterDraw k).pc = s.pc := by
  cases k <;> rfl
@[simp] theorem State.afterDraw_mem (s : State) (k : StoreKind) : (s.afterDraw k).mem = s.mem := by
  cases k <;> rfl
@[simp] theorem State.afterDraw_cur (s : State) (k : StoreKind) : (s.afterDraw k).cur = s.cur := by
  cases k <;> rfl
@[simp] theorem State.afterDraw_nxt (s : State) (k : StoreKind) : (s.afterDraw k).nxt = s.nxt := by
  cases k <;> rfl
@[simp] theorem State.afterDraw_stalled (s : State) (k : StoreKind) : (s.afterDraw k).stalled = s.stalled := by
  cases k <;> rfl
@[simp] theorem State.afterDraw_redirect (s : State) (k : StoreKind) : (s.afterDraw k).redirect = s.redirect := by
  cases k <;> rfl
@[simp] theorem State.afterDraw_cycle (s : State) (k : StoreKind) : (s.afterDraw k).cycle = s.cycle := by
  cases k <;> rfl
@[simp] theorem State.afterDraw_mark (s : State) (k : StoreKind) : (s.afterDraw k).mark = s.mark := by
  cases k <;> rfl
@[simp] theorem State.afterDraw_log (s : State) (k : StoreKind) : (s.afterDraw k).log = s.log := by
  cases k <;> rfl
@[simp] theorem State.afterDraw_activity (s : State) (k : StoreKind) : (s.afterDraw k).activity = s.activity := by
  cases k <;> rfl

@[simp] theorem commit_input (s : State) : (commit s).input = s.input := rfl
@[simp] theorem commit_regs (s : State) : (commit s).regs = s.regs := rfl
@[simp] theorem commit_pc (s : State) : (commit s).pc = nextPc s.stalled s.redirect s.pc := rfl
@[simp] theorem commit_mem (s : State) : (commit s).mem = s.mem := rfl
@[simp] theorem commit_cur (s : State) : (commit s).cur = s.nxt := rfl
@[simp] theorem commit_nxt (s : State) : (commit s).nxt = s.nxt := rfl
@[simp] theorem commit_stalled (s : State) : (commit s).stalled = false := rfl
@[simp] theorem commit_redirect (s : State) : (commit s).redirect = none := rfl
@[simp] theorem commit_cycle (s : State) : (commit s).cycle = s.cycle + 1 := rfl
@[simp] theorem commit_mark (s : State) : (commit s).mark = s.mark := rfl
@[simp] theorem commit_log (s : State) : (commit s).log = s.log := rfl
@[simp] theorem commit_activity (s : State) : (commit s).activity = .whole := rfl
@[simp] theorem commit_draws (s : State) : (commit s).draws = s.draws := rfl

@[simp] theorem holdOrSquash_input (s : State) : (holdOrSquash s).input = s.input := by
  unfold holdOrSquash; split <;> rfl
@[simp] theorem holdOrSquash_regs (s : State) : (holdOrSquash s).regs = s.regs := by
  unfold holdOrSquash; split <;> rfl
@[simp] theorem holdOrSquash_pc (s : State) : (holdOrSquash s).pc = s.pc := by
  unfold holdOrSquash; split <;> rfl
@[simp] theorem holdOrSquash_mem (s : State) : (holdOrSquash s).mem = s.mem := by
  unfold holdOrSquash; split <;> rfl
@[simp] theorem holdOrSquash_cur (s : State) : (holdOrSquash s).cur = s.cur := by
  unfold holdOrSquash; split <;> rfl
@[simp] theorem holdOrSquash_stalled (s : State) : (holdOrSquash s).stalled = s.stalled := by
  unfold holdOrSquash; split <;> rfl
@[simp] theorem holdOrSquash_redirect (s : State) : (holdOrSquash s).redirect = s.redirect := by
  unfold holdOrSquash; split <;> rfl
@[simp] theorem holdOrSquash_cycle (s : State) : (holdOrSquash s).cycle = s.cycle := by
  unfold holdOrSquash; split <;> rfl
@[simp] theorem holdOrSquash_mark (s : State) : (holdOrSquash s).mark = s.mark := by
  unfold holdOrSquash; split <;> rfl
@[simp] theorem holdOrSquash_log (s : State) : (holdOrSquash s).log = s.log := by
  unfold holdOrSquash; split <;> rfl
@[simp] theorem holdOrSquash_activity (s : State) : (holdOrSquash s).activity = s.activity := by
  unfold holdOrSquash; split <;> rfl
@[simp] theorem holdOrSquash_draws (s : State) : (holdOrSquash s).draws = s.draws := by
  unfold holdOrSquash; split <;> rfl

@[simp] theorem stallInId_input (s : State) : (stallInId s).input = s.input := by
  simp [stallInId]
@[simp] theorem stallInId_regs (s : State) : (stallInId s).regs = s.regs := by
  simp [stallInId]
@[simp] theorem stallInId_pc (s : State) : (stallInId s).pc = s.pc := by
  simp [stallInId]
@[simp] theorem stallInId_mem (s : State) : (stallInId s).mem = s.mem := by
  simp [stallInId]
@[simp] theorem stallInId_cur (s : State) : (stallInId s).cur = s.cur := by
  simp [stallInId]
@[simp] theorem stallInId_nxt (s : State) : (stallInId s).nxt = { s.nxt with idex := IdEx.empty } := by
  simp [stallInId]
@[simp] theorem stallInId_stalled (s : State) : (stallInId s).stalled = true := by
  simp [stallInId]
@[simp] theorem stallInId_redirect (s : State) : (stallInId s).redirect = none := by
  simp [stallInId]
@[simp] theorem stallInId_cycle (s : State) : (stallInId s).cycle = s.cycle := by
  simp [stallInId]
@[simp] theorem stallInId_mark (s : State) : (stallInId s).mark = s.mark := by
  simp [stallInId]
@[simp] theorem stallInId_activity (s : State) : (stallInId s).activity = s.activity := by
  simp [stallInId]
@[simp] theorem stallInId_draws (s : State) : (stallInId s).draws = s.draws := by
  simp [stallInId]

/-! Reads that no update but their own field's touches -/

@[simp] theorem State.setPc_readReg (s : State) (v : Word) (r : Reg) : (s.setPc v).readReg r = s.readReg r := rfl
@[simp] theorem State.setActivity_readReg (s : State) (v : Activity) (r : Reg) :
    (s.setActivity v).readReg r = s.readReg r := rfl
@[simp] theorem State.setActivity_wordAt (s : State) (v : Activity) (a : Word) :
    (s.setActivity v).wordAt a = s.wordAt a := rfl
@[simp] theorem State.record_readReg (s : State) (id : Option Nat) (n : StageName) (r : Reg) :
    (s.record id n).readReg r = s.readReg r := by
  cases id <;> rfl

end Sys2Proof.Machine
end

