-- ==== Sys2Proof/Laws/Memory.lean ====
section
/-! SUPPORT. The laws of data memory: every operation keeps the canonical form and the extent, and a read
after a write sees the write at its address and nowhere else. -/

namespace Sys2Proof.Machine

/-! ## One byte -/

theorem Memory.wfFrom_mono {low low' : Nat} {m : Memory} (h : Memory.wfFrom low m = true)
    (hl : low' ≤ low) : Memory.wfFrom low' m = true := by
  cases m with
  | nil => rfl
  | cons c rest =>
    simp only [Memory.wfFrom, Bool.and_eq_true, decide_eq_true_eq] at h ⊢
    exact ⟨⟨by omega, h.1.2⟩, h.2⟩

theorem Memory.read_below {low x : Nat} {m : Memory} (h : Memory.wfFrom low m = true) (hx : x < low) :
    m.read x = Config.memFill := by
  induction m generalizing low with
  | nil => rfl
  | cons c rest ih =>
    simp only [Memory.wfFrom, Bool.and_eq_true, decide_eq_true_eq] at h
    have hne : ¬c.1 = x := by omega
    simpa only [Memory.read, hne, if_false] using ih h.2 (by omega)

theorem Memory.read_write_from {low : Nat} {m : Memory} (h : Memory.wfFrom low m = true) (a x : Nat)
    (v : Byte) : (m.write a v).read x = if x = a then v else m.read x := by
  induction m generalizing low with
  | nil =>
    by_cases hv : v = Config.memFill <;> simp [Memory.write, Memory.read, hv, eq_comm (a := a)]
  | cons c rest ih =>
    obtain ⟨b, w⟩ := c
    simp only [Memory.wfFrom, Bool.and_eq_true, decide_eq_true_eq] at h
    have hbelow : ∀ y, y < b + 1 → Memory.read rest y = Config.memFill := fun y hy =>
      Memory.read_below h.2 hy
    rcases lt_trichotomy a b with hab | hab | hab
    · by_cases hv : v = Config.memFill
      · simp only [Memory.write, if_pos hab, if_pos hv]
        split
        · subst x; simp only [Memory.read, Nat.ne_of_gt hab, if_false, hbelow a (by omega), hv]
        · rfl
      · simp only [Memory.write, if_pos hab, if_neg hv, Memory.read, eq_comm (a := a)]
    · subst hab
      by_cases hv : v = Config.memFill
      · simp only [Memory.write, lt_irrefl, if_false, if_true, if_pos hv]
        split
        · subst x; rw [hbelow a (by omega), hv]
        · simp only [Memory.read]; rw [if_neg (by omega)]
      · simp only [Memory.write, lt_irrefl, if_false, if_true, if_neg hv, Memory.read, eq_comm (a := a)]
        split <;> rfl
    · have h1 : ¬a < b := by omega
      have h2 : ¬a = b := by omega
      simp only [Memory.write, if_neg h1, if_neg h2, Memory.read, ih h.2]
      by_cases hx : x = a
      · subst x; simp only [if_true, if_neg (Nat.ne_of_lt hab)]
      · simp only [if_neg hx]

theorem Memory.write_wfFrom {low a : Nat} {m : Memory} (h : Memory.wfFrom low m = true) (ha : low ≤ a)
    (v : Byte) : Memory.wfFrom low (m.write a v) = true := by
  induction m generalizing low with
  | nil =>
    by_cases hv : v = Config.memFill
    · simp [Memory.write, hv, Memory.wfFrom]
    · simp [Memory.write, hv, Memory.wfFrom, ha]
  | cons c rest ih =>
    obtain ⟨b, w⟩ := c
    have h0 := h
    simp only [Memory.wfFrom, Bool.and_eq_true, decide_eq_true_eq, bne_iff_ne] at h
    rcases lt_trichotomy a b with hab | hab | hab
    · by_cases hv : v = Config.memFill
      · simpa only [Memory.write, if_pos hab, if_pos hv] using h0
      · simp only [Memory.write, if_pos hab, if_neg hv, Memory.wfFrom, Bool.and_eq_true,
          decide_eq_true_eq, bne_iff_ne]
        exact ⟨⟨ha, hv⟩, ⟨⟨by omega, h.1.2⟩, h.2⟩⟩
    · subst hab
      by_cases hv : v = Config.memFill
      · simp only [Memory.write, lt_irrefl, if_false, if_true, if_pos hv]
        exact Memory.wfFrom_mono h.2 (by omega)
      · simp only [Memory.write, lt_irrefl, if_false, if_true, if_neg hv, Memory.wfFrom, Bool.and_eq_true,
          decide_eq_true_eq, bne_iff_ne]
        exact ⟨⟨ha, hv⟩, h.2⟩
    · have h1 : ¬a < b := by omega
      have h2 : ¬a = b := by omega
      simp only [Memory.write, if_neg h1, if_neg h2, Memory.wfFrom, Bool.and_eq_true, decide_eq_true_eq,
        bne_iff_ne]
      exact ⟨h.1, ih h.2 (by omega)⟩

theorem Memory.read_write {m : Memory} (h : m.wf = true) (a x : Nat) (v : Byte) :
    (m.write a v).read x = if x = a then v else m.read x :=
  Memory.read_write_from h a x v

theorem Memory.write_wf {m : Memory} (h : m.wf = true) (a : Nat) (v : Byte) : (m.write a v).wf = true :=
  Memory.write_wfFrom h (Nat.zero_le a) v

theorem Memory.write_bounded {m : Memory} (h : m.bounded = true) {a : Nat} (ha : a < Config.memSize)
    (v : Byte) : (m.write a v).bounded = true := by
  induction m with
  | nil =>
    by_cases hv : v = Config.memFill <;> simp [Memory.write, Memory.bounded, hv, ha]
  | cons c rest ih =>
    obtain ⟨b, w⟩ := c
    have hr : Memory.bounded rest = true := by
      simp only [Memory.bounded, List.all_cons, Bool.and_eq_true] at h ⊢; exact h.2
    have hb : b < Config.memSize := by
      simp only [Memory.bounded, List.all_cons, Bool.and_eq_true, decide_eq_true_eq] at h; exact h.1
    have ih := ih hr
    simp only [Memory.write]
    simp only [Memory.bounded] at ih hr
    split_ifs <;> simp [Memory.bounded, ha, hb, hr, ih]

/-! ## Runs of bytes -/

theorem Memory.writeBytes_wf {m : Memory} (h : m.wf = true) (a : Nat) (bs : List Byte) :
    (m.writeBytes a bs).wf = true := by
  induction bs generalizing m a with
  | nil => exact h
  | cons b rest ih => exact ih (Memory.write_wf h a b) (a + 1)

theorem Memory.writeBytes_bounded {m : Memory} (h : m.bounded = true) {a : Nat} {bs : List Byte}
    (ha : a + bs.length ≤ Config.memSize) : (m.writeBytes a bs).bounded = true := by
  induction bs generalizing m a with
  | nil => exact h
  | cons b rest ih =>
    simp only [List.length_cons] at ha
    exact ih (Memory.write_bounded h (by omega) b) (by omega)

/-- A write reaches its own address only, in any memory. -/
theorem Memory.read_write_ne (m : Memory) {a x : Nat} (h : x ≠ a) (v : Byte) :
    (m.write a v).read x = m.read x := by
  induction m with
  | nil => by_cases hv : v = Config.memFill <;> simp [Memory.write, Memory.read, hv, h.symm]
  | cons c rest ih =>
    obtain ⟨b, w⟩ := c
    by_cases hx : b = x <;>
      simp only [Memory.write] <;> split_ifs <;> simp_all [Memory.read, h.symm]

/-- A byte outside the run is untouched. -/
theorem Memory.read_writeBytes_outside (m : Memory) {a x : Nat} {bs : List Byte}
    (hx : x < a ∨ a + bs.length ≤ x) : (m.writeBytes a bs).read x = m.read x := by
  induction bs generalizing m a with
  | nil => rfl
  | cons b rest ih =>
    simp only [List.length_cons] at hx
    rw [Memory.writeBytes, ih _ (by omega), Memory.read_write_ne m (by omega)]

/-- Byte k of the run reads at the k-th address. -/
theorem Memory.read_writeBytes_inside {m : Memory} (h : m.wf = true) (a k : Nat) (bs : List Byte)
    (hk : k < bs.length) : (m.writeBytes a bs).read (a + k) = bs[k] := by
  induction bs generalizing m a k with
  | nil => exact absurd hk (by simp)
  | cons b rest ih =>
    cases k with
    | zero =>
      rw [Memory.writeBytes, Memory.read_writeBytes_outside _ (by omega),
        Memory.read_write h]
      simp
    | succ k =>
      have := ih (m := m.write a b) (Memory.write_wf h a b) (a + 1) k (by simpa using hk)
      simpa [Memory.writeBytes, Nat.add_assoc, Nat.add_comm 1 k] using this

@[simp] theorem storeBytes_length (k : StoreKind) (d high : Word) : (storeBytes k d high).length = k.size := by
  cases k <;> rfl

/-! ## Loads and stores of a state -/

/-- All a store can do: in range it writes its bytes, out of range under `ignore` it writes none; only SD
draws. -/
theorem State.store_cases {s t : State} {k : StoreKind} {ea d : Word} (h : s.store k ea d = some t) :
    (inRange ea.toNat k.size = true ∧
      t = (s.setMem (s.mem.writeBytes ea.toNat (s.bytesToStore k d))).afterDraw k) ∨
    (inRange ea.toNat k.size = false ∧ s.input.oobPolicy = .ignore ∧ t = s.afterDraw k) := by
  unfold State.store at h
  split at h
  · next hr => exact Or.inl ⟨hr, by simpa using h.symm⟩
  · next hr =>
    split at h
    · next hp => exact Or.inr ⟨by simpa using hr, hp, by simpa using h.symm⟩
    · exact absurd h (by simp)

/-- Under `ignore` a load always has a value, and a store always a state after it. -/
theorem State.load_isSome {s : State} (h : s.input.oobPolicy = .ignore) (k : LoadKind) (ea : Word) :
    ∃ v, s.load k ea = some v := by
  unfold State.load; split
  · exact ⟨_, rfl⟩
  · rw [h]; exact ⟨_, rfl⟩

theorem State.store_isSome {s : State} (h : s.input.oobPolicy = .ignore) (k : StoreKind) (ea d : Word) :
    ∃ t, s.store k ea d = some t := by
  unfold State.store; split
  · exact ⟨_, rfl⟩
  · rw [h]; exact ⟨_, rfl⟩

theorem State.store_wf {s t : State} {k : StoreKind} {ea d : Word} (h : s.store k ea d = some t)
    (hw : s.mem.wf = true) : t.mem.wf = true := by
  rcases State.store_cases h with ⟨_, rfl⟩ | ⟨_, _, rfl⟩
  · simpa using Memory.writeBytes_wf hw _ _
  · simpa using hw

theorem State.store_bounded {s t : State} {k : StoreKind} {ea d : Word} (h : s.store k ea d = some t)
    (hb : s.mem.bounded = true) : t.mem.bounded = true := by
  rcases State.store_cases h with ⟨hr, rfl⟩ | ⟨_, _, rfl⟩
  · have hl : ea.toNat + (s.bytesToStore k d).length ≤ Config.memSize := by
      simpa [inRange, State.bytesToStore] using hr
    simpa using Memory.writeBytes_bounded hb hl
  · simpa using hb

end Sys2Proof.Machine
end

