-- ==== Sys2Proof/Laws/Ops.lean ====
section
/-! SUPPORT. The laws of the register operations, of sequencing, and of the log. -/

namespace Sys2Proof.Machine

/-! ## Registers -/

@[simp] theorem State.readReg_zero (s : State) : s.readReg 0#5 = 0#32 := by simp [State.readReg]

@[simp] theorem State.writeReg_zero (s : State) (v : Word) : s.writeReg 0#5 v = s := by simp [State.writeReg]

@[simp] theorem State.writeDest_none (s : State) (v : Word) : s.writeDest none v = s := rfl

@[simp] theorem State.writeDest_some (s : State) (r : Reg) (v : Word) : s.writeDest (some r) v = s.writeReg r v := rfl

theorem State.writeReg_regs {r : Reg} (h : r ≠ 0#5) (s : State) (v : Word) :
    (s.writeReg r v).regs = s.regs.set r.toNat v r.isLt := by
  unfold State.writeReg
  rw [if_neg h]

theorem toNat_ne_of_ne {r q : Reg} (h : q ≠ r) : r.toNat ≠ q.toNat :=
  fun hh => h (BitVec.eq_of_toNat_eq hh.symm)

theorem State.readReg_writeReg_ne (s : State) {r q : Reg} (h : q ≠ r) (v : Word) :
    (s.writeReg r v).readReg q = s.readReg q := by
  by_cases hr : r = 0#5
  · rw [hr, State.writeReg_zero]
  · unfold State.readReg
    simp only [State.writeReg_regs hr]
    rw [Vector.getElem_set_ne _ _ (toNat_ne_of_ne h)]

theorem State.readReg_writeReg_eq (s : State) {r : Reg} (h : r ≠ 0#5) (v : Word) :
    (s.writeReg r v).readReg r = v := by
  unfold State.readReg
  simp only [State.writeReg_regs h, if_neg h, Vector.getElem_set_self]

/-- A read after a write: the value where the register is the one written and is not x0 (R31). -/
theorem State.readReg_writeReg (s : State) (r q : Reg) (v : Word) :
    (s.writeReg r v).readReg q = if q = r ∧ r ≠ 0#5 then v else s.readReg q := by
  by_cases hq : q = r
  · subst hq
    by_cases h0 : q = 0#5
    · subst h0; simp
    · rw [State.readReg_writeReg_eq s h0, if_pos ⟨rfl, h0⟩]
  · rw [State.readReg_writeReg_ne s hq, if_neg (fun h => hq h.1)]

theorem State.readReg_writeDest_ne (s : State) {r : Option Reg} {q : Reg} (h : r ≠ some q) (v : Word) :
    (s.writeDest r v).readReg q = s.readReg q := by
  cases r with
  | none => rfl
  | some r => exact State.readReg_writeReg_ne s (fun hh => h (by rw [hh])) v

/-- Slot 0 of the register file is out of reach of any write. -/
theorem State.writeReg_slot_zero (s : State) (r : Reg) (v : Word) : (s.writeReg r v).regs[0] = s.regs[0] := by
  by_cases hr : r = 0#5
  · rw [hr, State.writeReg_zero]
  · simp only [State.writeReg_regs hr]
    exact Vector.getElem_set_ne _ _ (fun h => hr (BitVec.eq_of_toNat_eq h))

theorem State.writeDest_slot_zero (s : State) (r : Option Reg) (v : Word) :
    (s.writeDest r v).regs[0] = s.regs[0] := by
  cases r with
  | none => rfl
  | some r => exact State.writeReg_slot_zero s r v

/-! ## Sequencing -/

@[simp] theorem andThen_next (s : State) (f : State → Host.Outcome State Fault Refusal) :
    andThen (.next s) f = f s := rfl

@[simp] theorem andThen_fault (r : Fault) (f : State → Host.Outcome State Fault Refusal) :
    andThen (.fault r) f = .fault r := rfl

@[simp] theorem andThen_refused (r : Refusal) (f : State → Host.Outcome State Fault Refusal) :
    andThen (.refused r) f = .refused r := rfl

theorem andThen_eq_next {o : Host.Outcome State Fault Refusal}
    {f : State → Host.Outcome State Fault Refusal} {t : State} (h : andThen o f = .next t) :
    ∃ s, o = .next s ∧ f s = .next t := by
  cases o with
  | next s => exact ⟨s, rfl, h⟩
  | fault r => exact absurd h (by simp)
  | refused r => exact absurd h (by simp)

/-! ## The log -/

/-- An entry of another cell is neither added nor removed. -/
theorem logCell_logAdd_other {log : List LogEntry} {id id' cycle cycle' : Nat} {n : StageName}
    (h : ¬(id = id' ∧ cycle = cycle')) : logCell (logAdd log id cycle n) id' cycle' = logCell log id' cycle' := by
  have hne : (id == id' && cycle == cycle') = false := by simpa [Bool.eq_false_iff] using h
  unfold logAdd
  split
  · split
    · simp only [logCell, List.filter_cons, hne, Bool.false_eq_true, if_false]
    · rfl
  · simp only [logCell, List.filter_cons, hne, Bool.false_eq_true, if_false, List.filter_filter]
    congr 1
    apply List.filter_congr
    intro e _
    by_cases he : e.id = id' ∧ e.cycle = cycle'
    · have hx : (e.id == id && e.cycle == cycle) = false := by
        rw [he.1, he.2, Bool.eq_false_iff]
        intro hh
        simp only [Bool.and_eq_true, beq_iff_eq] at hh
        exact h ⟨hh.1.symm, hh.2.symm⟩
      simp only [hx, Bool.false_and, Bool.not_false, Bool.and_true]
    · have hx : (e.id == id' && e.cycle == cycle') = false := by simpa [Bool.eq_false_iff] using he
      simp only [hx, Bool.false_and]

/-- A real stage name that is recorded is in its cell. -/
theorem mem_logCell_logAdd (log : List LogEntry) (id cycle : Nat) {n : StageName} (h : n ≠ .dash) :
    n ∈ logCell (logAdd log id cycle n) id cycle := by
  simp [logAdd, h, logCell]

/-- Recording adds entries of the given cycle only. -/
theorem logAdd_cycle {log : List LogEntry} {id cycle : Nat} {n : StageName} {e : LogEntry}
    (h : e ∈ logAdd log id cycle n) : e ∈ log ∨ e.cycle = cycle := by
  unfold logAdd at h
  split at h
  · split at h
    · rcases List.mem_cons.1 h with rfl | h
      · exact Or.inr rfl
      · exact Or.inl h
    · exact Or.inl h
  · rcases List.mem_cons.1 h with rfl | h
    · exact Or.inr rfl
    · exact Or.inl (List.mem_of_mem_filter h)

end Sys2Proof.Machine
end

