-- ==== Sys2Proof/Laws/Perform.lean ====
section
/-! SUPPORT. What an instruction's meaning can do, once for all instructions, and what each part of its work
can do when it answers a next state. -/

namespace Sys2Proof.Machine

/-- Every meaning is `perform` of one work, whose destination, load and store are those the instruction
names. -/
theorem exec_eq_perform (i : Instr) :
    ∃ w : Work, (∀ s, exec i s = perform w s) ∧ w.rd = i.dest ∧ w.load = i.loadKind ∧
      w.store = i.storeKind := by
  cases i <;> exact ⟨_, fun _ => rfl, rfl, rfl, rfl⟩

/-- No instruction both loads and stores. -/
theorem loadKind_or_storeKind_none (i : Instr) : i.loadKind = none ∨ i.storeKind = none := by
  cases i <;> first | exact Or.inl rfl | exact Or.inr rfl

/-- No instruction that stores has a destination. -/
theorem dest_or_storeKind_none (i : Instr) : i.dest = none ∨ i.storeKind = none := by
  cases i <;> first | exact Or.inl rfl | exact Or.inr rfl

/-- All a data access can do: a load, a store, or nothing. -/
theorem State.access_cases {s t : State} {load : Option LoadKind} {store : Option StoreKind} {ea d v : Word}
    (h : s.access load store ea d = some (v, t)) :
    (∃ k, load = some k ∧ s.load k ea = some v ∧ t = s) ∨
    (load = none ∧ ∃ k, store = some k ∧ s.store k ea d = some t ∧ v = 0) ∨
    (load = none ∧ store = none ∧ v = 0 ∧ t = s) := by
  unfold State.access at h
  cases load with
  | some k =>
    obtain ⟨x, hx, hxt⟩ := Option.map_eq_some_iff.1 h
    cases hxt
    exact Or.inl ⟨k, rfl, hx, rfl⟩
  | none =>
    cases store with
    | some k =>
      obtain ⟨x, hx, hxt⟩ := Option.map_eq_some_iff.1 h
      cases hxt
      exact Or.inr (Or.inl ⟨rfl, k, rfl, hx, rfl⟩)
    | none =>
      cases h
      exact Or.inr (Or.inr ⟨rfl, rfl, rfl, rfl⟩)

/-- A data access changes memory and the draw counter only. -/
theorem State.access_frame {s t : State} {load : Option LoadKind} {store : Option StoreKind} {ea d v : Word}
    (h : s.access load store ea d = some (v, t)) :
    t = { s with mem := t.mem, draws := t.draws } := by
  rcases State.access_cases h with ⟨_, _, _, rfl⟩ | ⟨_, k, _, hs, _⟩ | ⟨_, _, _, rfl⟩
  · rfl
  · rcases State.store_cases hs with ⟨_, rfl⟩ | ⟨_, _, rfl⟩ <;> cases k <;> rfl
  · rfl

theorem State.access_wf {s t : State} {load : Option LoadKind} {store : Option StoreKind} {ea d v : Word}
    (h : s.access load store ea d = some (v, t)) (hw : s.mem.wf = true) : t.mem.wf = true := by
  rcases State.access_cases h with ⟨_, _, _, rfl⟩ | ⟨_, k, _, hs, _⟩ | ⟨_, _, _, rfl⟩
  · exact hw
  · exact State.store_wf hs hw
  · exact hw

theorem State.access_bounded {s t : State} {load : Option LoadKind} {store : Option StoreKind}
    {ea d v : Word} (h : s.access load store ea d = some (v, t)) (hb : s.mem.bounded = true) :
    t.mem.bounded = true := by
  rcases State.access_cases h with ⟨_, _, _, rfl⟩ | ⟨_, k, _, hs, _⟩ | ⟨_, _, _, rfl⟩
  · exact hb
  · exact State.store_bounded hs hb
  · exact hb

/-- Under OOB_POLICY = ignore a data access always completes (R73, R74). -/
theorem State.access_isSome {s : State} (h : s.input.oobPolicy = .ignore) (load : Option LoadKind)
    (store : Option StoreKind) (ea d : Word) : ∃ v t, s.access load store ea d = some (v, t) := by
  unfold State.access
  cases load with
  | some k =>
    obtain ⟨v, hv⟩ := State.load_isSome h k ea
    exact ⟨v, s, by simp [hv]⟩
  | none =>
    cases store with
    | some k =>
      obtain ⟨t, ht⟩ := State.store_isSome h k ea d
      exact ⟨0, t, by simp [ht]⟩
    | none => exact ⟨0, s, rfl⟩

/-! ## The parts of an instruction's work -/

theorem writeBack_next (w : Work) (s : State) :
    writeBack w s = .next (if s.cur.memwb.ctl.regWrite then s.writeDest w.rd s.cur.memwb.value else s) := by
  unfold writeBack
  split <;> rfl

theorem memoryAccess_cases {w : Work} {s t : State} (h : memoryAccess w s = .next t) :
    ∃ v u, accessInMem w s = some (v, u) ∧
      t = u.setMemwb ⟨s.cur.exmem.ins, s.cur.exmem.pc, s.cur.exmem.id, s.cur.exmem.ctl,
        s.cur.exmem.aluResult, v⟩ := by
  unfold memoryAccess at h
  split at h
  · exact absurd h (by simp)
  · next v u hu => exact ⟨v, u, hu, by simpa using h.symm⟩

theorem execute_cases {w : Work} {s t : State} (h : execute w s = .next t) :
    ∃ r, resultInEx w s = some r ∧
      t = s.setExmem ⟨s.cur.idex.ins, s.cur.idex.pc, s.cur.idex.id, s.cur.idex.ctl, r,
        s.operandInEx w.rs2 s.cur.idex.b⟩ := by
  unfold execute at h
  split at h
  · exact absurd h (by simp)
  · next r hr => exact ⟨r, hr, by simpa using h.symm⟩

theorem accept_next (w : Work) (s : State) :
    accept w s = .next ((s.setIdex ⟨s.cur.ifid.ins, s.cur.ifid.pc, s.cur.ifid.id, control s.cur.ifid.ins,
      s.operandInId w.rs1, s.operandInId w.rs2⟩).setRedirect
        (w.target s.cur.ifid.pc (s.operandInId w.rs1) (s.operandInId w.rs2))) := rfl

theorem performWhole_cases {w : Work} {s t : State} (h : performWhole w s = .next t) :
    ∃ r v u, resultWhole w s = some r ∧
      s.access w.load w.store r (s.operand w.rs2) = some (v, u) ∧
      t = (u.writeDest w.rd (if w.load.isSome then v else r)).setPc (pcAfter w s) := by
  unfold performWhole at h
  split at h
  · exact absurd h (by simp)
  · next r hr =>
    split at h
    · exact absurd h (by simp)
    · next v u hu => exact ⟨r, v, u, hr, hu, by simpa using h.symm⟩

/-! ## The stages of a cycle -/

theorem runIn_next {a : Activity} {ins : Record} {pc : Word} {s t : State} (h : runIn a ins pc s = .next t) :
    ∃ i, ins.instr = .ok i ∧ exec i (s.setActivity a) = .next t := by
  unfold runIn at h
  split at h
  · next i hi => exact ⟨i, hi, h⟩
  · exact absurd h (by simp)

theorem wbStage_cases {s t : State} (h : wbStage s = .next t) :
    ∃ i, s.cur.memwb.ins.instr = .ok i ∧
      t = (if s.cur.memwb.ctl.regWrite then
            ((s.record s.cur.memwb.id .WB).setActivity .wb).writeDest i.dest s.cur.memwb.value
          else (s.record s.cur.memwb.id .WB).setActivity .wb) := by
  obtain ⟨i, hi, ht⟩ := runIn_next h
  obtain ⟨w, hw, hrd, _, _⟩ := exec_eq_perform i
  refine ⟨i, hi, ?_⟩
  rw [hw] at ht
  have := (writeBack_next w ((s.record s.cur.memwb.id .WB).setActivity .wb)).symm.trans ht
  rw [hrd] at this
  simpa using (Host.Outcome.next.inj this).symm

theorem memStage_cases {s t : State} (h : memStage s = .next t) :
    ∃ i v u, s.cur.exmem.ins.instr = .ok i ∧
      ((s.record s.cur.exmem.id .MEM).setActivity .mem).access
        (if s.cur.exmem.ctl.memRead then i.loadKind else none)
        (if s.cur.exmem.ctl.memWrite then i.storeKind else none)
        s.cur.exmem.aluResult ((s.record s.cur.exmem.id .MEM).setActivity .mem).storeValue = some (v, u) ∧
      t = u.setMemwb ⟨s.cur.exmem.ins, s.cur.exmem.pc, s.cur.exmem.id, s.cur.exmem.ctl,
        s.cur.exmem.aluResult, v⟩ := by
  obtain ⟨i, hi, ht⟩ := runIn_next h
  obtain ⟨w, hw, _, hl, hs⟩ := exec_eq_perform i
  rw [hw] at ht
  obtain ⟨v, u, hu, htu⟩ := memoryAccess_cases (w := w) ht
  refine ⟨i, v, u, hi, ?_, by simpa using htu⟩
  rw [← hl, ← hs]
  simpa [accessInMem] using hu

theorem exStage_cases {s t : State} (h : exStage s = .next t) :
    ∃ i w r, s.cur.idex.ins.instr = .ok i ∧ (∀ s, exec i s = perform w s) ∧
      resultInEx w ((s.record s.cur.idex.id .EX).setActivity .ex) = some r ∧
      t = ((s.record s.cur.idex.id .EX).setActivity .ex).setExmem ⟨s.cur.idex.ins, s.cur.idex.pc,
        s.cur.idex.id, s.cur.idex.ctl, r,
        ((s.record s.cur.idex.id .EX).setActivity .ex).operandInEx w.rs2 s.cur.idex.b⟩ := by
  obtain ⟨i, hi, ht⟩ := runIn_next h
  obtain ⟨w, hw, _, _, _⟩ := exec_eq_perform i
  rw [hw] at ht
  obtain ⟨r, hr, htr⟩ := execute_cases (w := w) ht
  exact ⟨i, w, r, hi, hw, by simpa using hr, by simpa using htr⟩

theorem idStage_cases {s t : State} (h : idStage s = .next t) :
    (hazard s.input.fwd s.cur s.cur.ifid.ins = true ∧ t = stallInId s) ∨
    (hazard s.input.fwd s.cur s.cur.ifid.ins = false ∧ ∃ i w, s.cur.ifid.ins.instr = .ok i ∧
      (∀ s, exec i s = perform w s) ∧
      t = ((((s.setStalled false).record s.cur.ifid.id .ID).setActivity .id).setIdex
          ⟨s.cur.ifid.ins, s.cur.ifid.pc, s.cur.ifid.id, control s.cur.ifid.ins,
            (((s.setStalled false).record s.cur.ifid.id .ID).setActivity .id).operandInId w.rs1,
            (((s.setStalled false).record s.cur.ifid.id .ID).setActivity .id).operandInId w.rs2⟩).setRedirect
        (w.target s.cur.ifid.pc
          ((((s.setStalled false).record s.cur.ifid.id .ID).setActivity .id).operandInId w.rs1)
          ((((s.setStalled false).record s.cur.ifid.id .ID).setActivity .id).operandInId w.rs2))) := by
  unfold idStage at h
  split at h
  · next hz => exact Or.inl ⟨hz, by simpa using h.symm⟩
  · next hz =>
    obtain ⟨i, hi, ht⟩ := runIn_next h
    obtain ⟨w, hw, _, _, _⟩ := exec_eq_perform i
    rw [hw] at ht
    refine Or.inr ⟨by simpa using hz, i, w, hi, hw, ?_⟩
    have := (accept_next w _).symm.trans ht
    simpa using (Host.Outcome.next.inj this).symm

theorem ifStage_cases {s t : State} (h : ifStage s = .next t) :
    ((s.stalled = true ∨ s.redirect.isSome = true) ∧ t = holdOrSquash s) ∨
    (s.stalled = false ∧ s.redirect = none ∧ s.fetchFaults s.pc = false ∧
      t = (s.setIfid (fetched s)).record (fetched s).id .IF) := by
  unfold ifStage at h
  split at h
  · next hc => exact Or.inl ⟨hc, by simpa using h.symm⟩
  · next hc =>
    simp only [not_or, Bool.not_eq_true, Option.isSome_eq_false_iff, Option.isNone_iff_eq_none] at hc
    unfold fetch at h
    split at h
    · exact absurd h (by simp)
    · next hp => exact Or.inr ⟨hc.1, hc.2, by simpa using hp, by simpa using h.symm⟩

/-- A cycle that answers a next state ran all five stages, and committed. -/
theorem oneCycle_cases {s t : State} (h : oneCycle s = .next t) :
    ∃ s1 s2 s3 s4 s5, wbStage s = .next s1 ∧ memStage s1 = .next s2 ∧ exStage s2 = .next s3 ∧
      idStage s3 = .next s4 ∧ ifStage s4 = .next s5 ∧ t = commit s5 := by
  obtain ⟨s1, h1, h⟩ := andThen_eq_next h
  obtain ⟨s2, h2, h⟩ := andThen_eq_next h
  obtain ⟨s3, h3, h⟩ := andThen_eq_next h
  obtain ⟨s4, h4, h⟩ := andThen_eq_next h
  obtain ⟨s5, h5, h⟩ := andThen_eq_next h
  exact ⟨s1, s2, s3, s4, s5, h1, h2, h3, h4, h5, by simpa using h.symm⟩

/-- A step that answers a next state is a cycle of an unmarked state. -/
theorem step_cases {s t : State} (h : step s = .next t) : s.mark = none ∧ oneCycle s = .next t := by
  unfold step at h
  split at h
  · next m _ => cases m <;> exact absurd h (by simp [Mark.outcome])
  · next hm => exact ⟨hm, h⟩

end Sys2Proof.Machine
end

