-- ==== Sys2Proof/Laws/Decode.lean ====
section
/-! SUPPORT. What the decoder makes of a word, by opcode, and the work a decoded record stands for in the
pipeline. -/

namespace Sys2Proof

/-! ## The decoder by opcode (30_encoding.md R111, R147) -/

theorem decodeRecord_of_ne_zero {w : Word} (h : w ≠ 0) : decodeRecord w = ⟨w, opcodeOf w, payloadOf w⟩ :=
  if_neg h

theorem ne_zero_of_opcode {w : Word} {op : BitVec 7} (h : opcodeOf w = op) (hop : op ≠ 0) : w ≠ 0 := by
  rintro rfl
  exact hop (h.symm.trans (by decide))

@[simp] theorem decodeRecord_raw (w : Word) : (decodeRecord w).raw = w := by
  unfold decodeRecord
  split
  · next h => exact h.symm
  · rfl

theorem decode_zero : decode 0 = .ok .nop := rfl

theorem decode_r {w : Word} (h : opcodeOf w = 0x33) :
    decode w = rTypeInstr (rdOf w) (rs1Of w) (rs2Of w) (funct3Of w) (funct7Of w) := by
  simp [decode, decodeRecord_of_ne_zero (ne_zero_of_opcode h (by decide)), payloadOf, Record.instr, h]

theorem decode_immediate {w : Word} (h : opcodeOf w = 0x13) :
    decode w = .ok (immediateInstr w (rdOf w) (rs1Of w) (funct3Of w) (immI w)) := by
  simp [decode, decodeRecord_of_ne_zero (ne_zero_of_opcode h (by decide)), payloadOf, Record.instr, h]

theorem decode_load {w : Word} (h : opcodeOf w = 0x03) :
    decode w = loadInstr (rdOf w) (rs1Of w) (funct3Of w) (immI w) := by
  simp [decode, decodeRecord_of_ne_zero (ne_zero_of_opcode h (by decide)), payloadOf, Record.instr, h]

theorem decode_jalr {w : Word} (h : opcodeOf w = 0x67) : decode w = .ok (.jalr (rdOf w) (rs1Of w) (immI w)) := by
  simp [decode, decodeRecord_of_ne_zero (ne_zero_of_opcode h (by decide)), payloadOf, Record.instr, h]

theorem decode_store {w : Word} (h : opcodeOf w = 0x23) :
    decode w = storeInstr (rs1Of w) (rs2Of w) (funct3Of w) (immS w) := by
  simp [decode, decodeRecord_of_ne_zero (ne_zero_of_opcode h (by decide)), payloadOf, Record.instr, h]

theorem decode_branch {w : Word} (h : opcodeOf w = 0x63) :
    decode w = branchInstr (rs1Of w) (rs2Of w) (funct3Of w) (immB w) := by
  simp [decode, decodeRecord_of_ne_zero (ne_zero_of_opcode h (by decide)), payloadOf, Record.instr, h]

theorem decode_lui {w : Word} (h : opcodeOf w = 0x37) : decode w = .ok (.lui (rdOf w) (immU w)) := by
  simp [decode, decodeRecord_of_ne_zero (ne_zero_of_opcode h (by decide)), payloadOf, Record.instr, h]

theorem decode_auipc {w : Word} (h : opcodeOf w = 0x17) : decode w = .ok (.auipc (rdOf w) (immU w)) := by
  simp [decode, decodeRecord_of_ne_zero (ne_zero_of_opcode h (by decide)), payloadOf, Record.instr, h]

theorem decode_jal {w : Word} (h : opcodeOf w = 0x6F) : decode w = .ok (.jal (rdOf w) (immJ w)) := by
  simp [decode, decodeRecord_of_ne_zero (ne_zero_of_opcode h (by decide)), payloadOf, Record.instr, h]

namespace Machine

/-! ## The work of a record -/

/-- A shift amount kept as five bits shifts as the immediate it was cut from. -/
theorem shiftAmount_of_field (imm : Word) : shiftAmount ((imm.extractLsb' 0 5).setWidth 32) = shiftAmount imm := by
  simp only [shiftAmount]
  congr 1
  apply BitVec.eq_of_getLsbD_eq
  intro k hk
  simp [hk, show k < 32 by omega]

/-- The work of a supported record reads the record's sources, writes its destination, redirects as the
record's format says, and has the EX result that its format and the ControlUnit's signals give. -/
theorem work_of_record {ins : Record} {i : Instr} (h : ins.instr = .ok i) :
    ∃ w : Work, (∀ s, exec i s = perform w s) ∧ w.rs1 = ins.rs1 ∧ w.rs2 = ins.rs2 ∧ w.rd = ins.rd ∧
      w.load = i.loadKind ∧ w.store = i.storeKind ∧
      (∀ ipc a b, w.target ipc a b = redirectOf ins ipc a b) ∧
      ∀ p ipc a b, w.result p ipc a b = exResult p ins (control ins) ipc a b := by
  obtain ⟨raw, op, payload⟩ := ins
  cases payload with
  | r rd rs1 rs2 f3 f7 =>
    simp only [Record.instr, rTypeInstr] at h
    split_ifs at h <;> cases h <;>
      exact ⟨_, fun _ => rfl, rfl, rfl, rfl, rfl, rfl, fun _ _ _ => rfl, fun _ _ _ _ => by
        simp_all [exResult, onAlu, control, rTypeAluOp, Work.registers]⟩
  | i rd rs1 f3 imm =>
    simp only [Record.instr, immediateInstr, loadInstr] at h
    split_ifs at h <;> cases h <;>
      exact ⟨_, fun _ => rfl, rfl, rfl, rfl, rfl, rfl,
        fun _ _ _ => by simp_all [redirectOf, Work.immediate, Work.loading, Work.jumping],
        fun _ _ _ _ => by
          simp_all [exResult, onAlu, control, immediateAluOp, Work.immediate, Work.loading, Work.jumping, alu,
            shiftAmount_of_field]⟩
  | s rs1 rs2 f3 imm =>
    simp only [Record.instr, storeInstr] at h
    split_ifs at h <;> cases h <;>
      exact ⟨_, fun _ => rfl, rfl, rfl, rfl, rfl, rfl, fun _ _ _ => rfl, fun _ _ _ _ => rfl⟩
  | b rs1 rs2 f3 imm =>
    simp only [Record.instr, branchInstr] at h
    split_ifs at h <;> cases h <;>
      exact ⟨_, fun _ => rfl, rfl, rfl, rfl, rfl, rfl, fun _ _ _ => by
        simp_all [redirectOf, Work.branching, branchTaken, condEq, condNe, condLt, condGe, condLtU, condGeU],
        fun _ _ _ _ => rfl⟩
  | u rd imm =>
    simp only [Record.instr] at h
    split_ifs at h <;> cases h <;>
      exact ⟨_, fun _ => rfl, rfl, rfl, rfl, rfl, rfl, fun _ _ _ => rfl, fun _ _ _ _ => by
        simp_all [exResult, Work.upper]⟩
  | j rd imm =>
    simp only [Record.instr] at h
    split_ifs at h
    cases h
    exact ⟨_, fun _ => rfl, rfl, rfl, rfl, rfl, rfl, fun _ _ _ => rfl, fun _ _ _ _ => rfl⟩
  | nop => cases h; exact ⟨_, fun _ => rfl, rfl, rfl, rfl, rfl, rfl, fun _ _ _ => rfl, fun _ _ _ _ => rfl⟩
  | unknown => cases h; exact ⟨_, fun _ => rfl, rfl, rfl, rfl, rfl, rfl, fun _ _ _ => rfl, fun _ _ _ _ => rfl⟩

end Machine

end Sys2Proof
end

