-- ==== Sys2Proof/Laws/PerInstr.lean ====
section
/-! SUPPORT. The family EncodedOpcode: the low seven bits of an encoded instruction are the opcode its row
of spec/opcode_table.json fixes (30_encoding.md R111, R147). A round-trip proof dispatches on it. -/

namespace Sys2Proof.Laws.EncodedOpcode

/-- The opcode of each constructor's row. -/
def rowOpcode : Instr → BitVec 7
  | .add _ _ _ => 0x33#7
  | .sub _ _ _ => 0x33#7
  | .sll _ _ _ => 0x33#7
  | .srl _ _ _ => 0x33#7
  | .sra _ _ _ => 0x33#7
  | .mul _ _ _ => 0x33#7
  | .div _ _ _ => 0x33#7
  | .addi _ _ _ => 0x13#7
  | .slti _ _ _ => 0x13#7
  | .sltiu _ _ _ => 0x13#7
  | .xori _ _ _ => 0x13#7
  | .ori _ _ _ => 0x13#7
  | .andi _ _ _ => 0x13#7
  | .slli _ _ _ => 0x13#7
  | .srli _ _ _ => 0x13#7
  | .srai _ _ _ => 0x13#7
  | .lui _ _ => 0x37#7
  | .auipc _ _ => 0x17#7
  | .lb _ _ _ => 0x03#7
  | .lh _ _ _ => 0x03#7
  | .lw _ _ _ => 0x03#7
  | .lbu _ _ _ => 0x03#7
  | .lhu _ _ _ => 0x03#7
  | .sb _ _ _ => 0x23#7
  | .sh _ _ _ => 0x23#7
  | .sw _ _ _ => 0x23#7
  | .sd _ _ _ => 0x23#7
  | .beq _ _ _ => 0x63#7
  | .bne _ _ _ => 0x63#7
  | .blt _ _ _ => 0x63#7
  | .bge _ _ _ => 0x63#7
  | .bltu _ _ _ => 0x63#7
  | .bgeu _ _ _ => 0x63#7
  | .jal _ _ => 0x6F#7
  | .jalr _ _ _ => 0x67#7
  | .nop => 0x00#7
  | .unknown => 0x73#7

def Statement (i : Instr) : Prop := opcodeOf (encode i) = rowOpcode i

/-- The last field of a concatenation is read back whole. -/
theorem opcodeOf_append (x : BitVec 25) (op : BitVec 7) : opcodeOf (x ++ op : BitVec 32) = op := by
  apply BitVec.eq_of_getLsbD_eq
  intro k hk
  have h : (x ++ op : BitVec (25 + 7)).getLsbD k = op.getLsbD k := by
    rw [BitVec.getLsbD_append, if_pos hk]
  simpa [opcodeOf, hk] using h

theorem add (rd rs1 rs2 : Reg) : Statement (.add rd rs1 rs2) := opcodeOf_append _ _
theorem sub (rd rs1 rs2 : Reg) : Statement (.sub rd rs1 rs2) := opcodeOf_append _ _
theorem sll (rd rs1 rs2 : Reg) : Statement (.sll rd rs1 rs2) := opcodeOf_append _ _
theorem srl (rd rs1 rs2 : Reg) : Statement (.srl rd rs1 rs2) := opcodeOf_append _ _
theorem sra (rd rs1 rs2 : Reg) : Statement (.sra rd rs1 rs2) := opcodeOf_append _ _
theorem mul (rd rs1 rs2 : Reg) : Statement (.mul rd rs1 rs2) := opcodeOf_append _ _
theorem div (rd rs1 rs2 : Reg) : Statement (.div rd rs1 rs2) := opcodeOf_append _ _
theorem addi (rd rs1 : Reg) (imm : Word) : Statement (.addi rd rs1 imm) := opcodeOf_append _ _
theorem slti (rd rs1 : Reg) (imm : Word) : Statement (.slti rd rs1 imm) := opcodeOf_append _ _
theorem sltiu (rd rs1 : Reg) (imm : Word) : Statement (.sltiu rd rs1 imm) := opcodeOf_append _ _
theorem xori (rd rs1 : Reg) (imm : Word) : Statement (.xori rd rs1 imm) := opcodeOf_append _ _
theorem ori (rd rs1 : Reg) (imm : Word) : Statement (.ori rd rs1 imm) := opcodeOf_append _ _
theorem andi (rd rs1 : Reg) (imm : Word) : Statement (.andi rd rs1 imm) := opcodeOf_append _ _
theorem slli (rd rs1 : Reg) (shamt : BitVec 5) : Statement (.slli rd rs1 shamt) := opcodeOf_append _ _
theorem srli (rd rs1 : Reg) (shamt : BitVec 5) : Statement (.srli rd rs1 shamt) := opcodeOf_append _ _
theorem srai (rd rs1 : Reg) (shamt : BitVec 5) : Statement (.srai rd rs1 shamt) := opcodeOf_append _ _
theorem lui (rd : Reg) (imm : Word) : Statement (.lui rd imm) := opcodeOf_append _ _
theorem auipc (rd : Reg) (imm : Word) : Statement (.auipc rd imm) := opcodeOf_append _ _
theorem lb (rd rs1 : Reg) (imm : Word) : Statement (.lb rd rs1 imm) := opcodeOf_append _ _
theorem lh (rd rs1 : Reg) (imm : Word) : Statement (.lh rd rs1 imm) := opcodeOf_append _ _
theorem lw (rd rs1 : Reg) (imm : Word) : Statement (.lw rd rs1 imm) := opcodeOf_append _ _
theorem lbu (rd rs1 : Reg) (imm : Word) : Statement (.lbu rd rs1 imm) := opcodeOf_append _ _
theorem lhu (rd rs1 : Reg) (imm : Word) : Statement (.lhu rd rs1 imm) := opcodeOf_append _ _
theorem sb (rs1 rs2 : Reg) (imm : Word) : Statement (.sb rs1 rs2 imm) := opcodeOf_append _ _
theorem sh (rs1 rs2 : Reg) (imm : Word) : Statement (.sh rs1 rs2 imm) := opcodeOf_append _ _
theorem sw (rs1 rs2 : Reg) (imm : Word) : Statement (.sw rs1 rs2 imm) := opcodeOf_append _ _
theorem sd (rs1 rs2 : Reg) (imm : Word) : Statement (.sd rs1 rs2 imm) := opcodeOf_append _ _
theorem beq (rs1 rs2 : Reg) (imm : Word) : Statement (.beq rs1 rs2 imm) := opcodeOf_append _ _
theorem bne (rs1 rs2 : Reg) (imm : Word) : Statement (.bne rs1 rs2 imm) := opcodeOf_append _ _
theorem blt (rs1 rs2 : Reg) (imm : Word) : Statement (.blt rs1 rs2 imm) := opcodeOf_append _ _
theorem bge (rs1 rs2 : Reg) (imm : Word) : Statement (.bge rs1 rs2 imm) := opcodeOf_append _ _
theorem bltu (rs1 rs2 : Reg) (imm : Word) : Statement (.bltu rs1 rs2 imm) := opcodeOf_append _ _
theorem bgeu (rs1 rs2 : Reg) (imm : Word) : Statement (.bgeu rs1 rs2 imm) := opcodeOf_append _ _
theorem jal (rd : Reg) (imm : Word) : Statement (.jal rd imm) := opcodeOf_append _ _
theorem jalr (rd rs1 : Reg) (imm : Word) : Statement (.jalr rd rs1 imm) := opcodeOf_append _ _
theorem nop : Statement .nop := rfl
theorem unknown : Statement .unknown := rfl

end Sys2Proof.Laws.EncodedOpcode
end

