-- ==== Sys2Proof/Laws/Step.lean ====
section
/-! SUPPORT. The laws of a fetch, and of placing a word for the next step: what of the state stays, and that
only latches, PROG, pc and the mark are touched. -/

namespace Sys2Proof.Machine

/-! ## The fetch (50_pipeline.md R340 to R342) -/

theorem aligned_iff (pc : Word) : aligned pc = true ↔ pc.toNat % 4 = 0 := by simp [aligned]

theorem fetchFaults_iff (s : State) (pc : Word) :
    s.fetchFaults pc = true ↔ pc.toNat % 4 ≠ 0 ∧ s.input.misalignedFetch = .fault := by
  simp [State.fetchFaults, aligned]

theorem wordAt_aligned (s : State) {pc : Word} (h : pc.toNat % 4 = 0) :
    s.wordAt pc = s.input.prog[pc.toNat / 4]? := if_pos ((aligned_iff pc).2 h)

theorem wordAt_misaligned (s : State) {pc : Word} (h : pc.toNat % 4 ≠ 0) :
    s.wordAt pc = s.input.misalignedFetch.word := if_neg (fun ha => h ((aligned_iff pc).1 ha))

theorem fetchId_misaligned (ins : Record) {pc : Word} (h : pc.toNat % 4 ≠ 0) : fetchId ins pc = none := by
  simp [fetchId, aligned, h]

/-! ## Placing a word (log 4) -/

/-- Taking over a latch changes current latches only. -/
theorem State.takeFrom_frame (s : State) (o : Host.Outcome State Fault Refusal)
    (f : Latches → Latches → Latches) : s.takeFrom o f = { s with cur := (s.takeFrom o f).cur } := by
  cases o <;> rfl

theorem State.clearHazard_frame (s : State) : s.clearHazard = { s with cur := s.clearHazard.cur } := by
  unfold State.clearHazard
  split <;> rfl

/-- Placing a word fills latches, and changes beside them only what placing it in PROG does. -/
theorem State.withFetchWord_frame (s : State) (nbits w : Nat) :
    s.withFetchWord nbits w = { s.placeAtPc (BitVec.ofNat 32 (w % 2 ^ nbits)) with
      cur := (s.withFetchWord nbits w).cur
      nxt := (s.withFetchWord nbits w).cur } := by
  unfold State.withFetchWord State.settle
  rw [State.clearHazard_frame, State.fillMemwb, State.takeFrom_frame, State.fillExmem, State.takeFrom_frame,
    State.fillIdex, State.takeFrom_frame]
  rfl

@[simp] theorem State.withFetchWord_regs (s : State) (nbits w : Nat) : (s.withFetchWord nbits w).regs = s.regs := by
  rw [State.withFetchWord_frame]; rfl
@[simp] theorem State.withFetchWord_mem (s : State) (nbits w : Nat) : (s.withFetchWord nbits w).mem = s.mem := by
  rw [State.withFetchWord_frame]; rfl
@[simp] theorem State.withFetchWord_pc (s : State) (nbits w : Nat) :
    (s.withFetchWord nbits w).pc = s.pc &&& 0xFFFFFFFC := by
  rw [State.withFetchWord_frame]; rfl
@[simp] theorem State.withFetchWord_mark (s : State) (nbits w : Nat) : (s.withFetchWord nbits w).mark = none := by
  rw [State.withFetchWord_frame]; rfl
@[simp] theorem State.withFetchWord_activity (s : State) (nbits w : Nat) :
    (s.withFetchWord nbits w).activity = s.activity := by
  rw [State.withFetchWord_frame]; rfl
@[simp] theorem State.withFetchWord_draws (s : State) (nbits w : Nat) :
    (s.withFetchWord nbits w).draws = s.draws := by
  rw [State.withFetchWord_frame]; rfl

/-- The word is where the fetch looks for it. -/
theorem placeWord_get (prog : List Word) (k : Nat) (w : Word) : (placeWord prog k w)[k]? = some w := by
  induction k generalizing prog with
  | zero => cases prog <;> rfl
  | succ k ih => cases prog <;> simpa [placeWord] using ih _

end Sys2Proof.Machine
end

