-- ==== Sys2Proof/Tests/Slice0.lean ====
section
/-! SUPPORT. Tests with results taken from the spec's worked vectors (spec/95_test_vectors.md), and a witness
for the hypotheses of each statement. -/

open Sys2Proof Sys2Proof.Machine

namespace Sys2Proof.Tests

/-! ## Helpers -/

/-- x1 = a, x2 = b, x5 = DEADBEEF, every other register 0, at address 0. -/
def with12 (a b : Word) : State :=
  { State.reset with regs := (((Vector.replicate 32 0).set 1 a).set 2 b).set 5 0xDEADBEEF }

def atPc (s : State) (pc : Word) : State := { s with pc := pc }

def doing (s : State) (a : Activity) : State := { s with activity := a }

def withBytes (s : State) (a : Nat) (bs : List Byte) : State := { s with mem := s.mem.writeBytes a bs }

def withOob (s : State) (p : OobPolicy) : State := { s with input := { s.input with oobPolicy := p } }

def withDiv (s : State) (p : DivOverflow) : State := { s with input := { s.input with divOverflow := p } }

def withMisaligned (s : State) (p : MisalignedFetch) : State :=
  { s with input := { s.input with misalignedFetch := p } }

/-- The register after an outcome, if it is a next state. -/
def regAfter (o : Host.Outcome State Fault Refusal) (r : Reg) : Option Word :=
  match o with
  | .next t => some (t.readReg r)
  | .fault _ => none
  | .refused _ => none

def pcAfterwards (o : Host.Outcome State Fault Refusal) : Option Word :=
  match o with
  | .next t => some t.pc
  | .fault _ => none
  | .refused _ => none

/-- The listed bytes of memory after an outcome, if it is a next state. -/
def memAfter (o : Host.Outcome State Fault Refusal) : Option Memory :=
  match o with
  | .next t => some t.mem
  | .fault _ => none
  | .refused _ => none

def isNext (o : Host.Outcome State Fault Refusal) : Bool :=
  match o with
  | .next _ => true
  | .fault _ => false
  | .refused _ => false

def faultOf (o : Host.Outcome State Fault Refusal) : Option Fault :=
  match o with
  | .next _ => none
  | .fault r => some r
  | .refused _ => none

def refusalOf (o : Host.Outcome State Fault Refusal) : Option Refusal :=
  match o with
  | .next _ => none
  | .fault _ => none
  | .refused r => some r

/-- The state after an outcome, and the given one where there is none. -/
def stateAfter (s : State) (o : Host.Outcome State Fault Refusal) : State :=
  match o with
  | .next t => t
  | .fault _ => s
  | .refused _ => s

theorem next_stateAfter {s : State} {o : Host.Outcome State Fault Refusal} (h : isNext o = true) :
    o = .next (stateAfter s o) := by
  cases o with
  | next t => rfl
  | fault r => cases h
  | refused r => cases h

def idAt (w : Word) (k : Nat) : Option Nat := if w = 0 then none else some k

/-- The latches of four words of PROG in flight, the oldest in MEM/WB. -/
def fourLatches (wb mem ex id : Word) : Latches where
  ifid := ⟨decodeRecord id, 12, idAt id 3⟩
  idex := ⟨decodeRecord ex, 8, idAt ex 2, control (decodeRecord ex), 0, 0⟩
  exmem := ⟨decodeRecord mem, 4, idAt mem 1, control (decodeRecord mem), 0, 0⟩
  memwb := ⟨decodeRecord wb, 0, idAt wb 0, control (decodeRecord wb), 0, 0⟩

/-- PROG = [wb, mem, ex, id] in flight in cycle 4, all registers and operands 0. -/
def flight (fwd : Bool) (wb mem ex id : Word) : State :=
  { State.construct { Inputs.default with prog := [wb, mem, ex, id], fwd := fwd } (Vector.replicate 32 0) [] with
    pc := 16
    cycle := 4
    cur := fourLatches wb mem ex id
    nxt := fourLatches wb mem ex id }

def withExAddress (s : State) (a : Word) : State :=
  { s with
    cur := { s.cur with exmem := { s.cur.exmem with aluResult := a } }
    nxt := { s.cur with exmem := { s.cur.exmem with aluResult := a } } }

def withExOperands (s : State) (a b : Word) : State :=
  { s with
    cur := { s.cur with idex := { s.cur.idex with a := a, b := b } }
    nxt := { s.cur with idex := { s.cur.idex with a := a, b := b } } }

/-! ## WellFormed: an ill-formed term for each check -/

theorem test_twelve_bits_refused : (Instr.addi 1 2 0x00000800).wellFormed = false := by decide

theorem test_branch_width_refused : (Instr.beq 1 2 0x00001000).wellFormed = false := by decide

theorem test_branch_odd_refused : (Instr.beq 1 2 0x00000003).wellFormed = false := by decide

theorem test_upper_low_bits_refused : (Instr.lui 1 0x12345001).wellFormed = false := by decide

theorem test_jump_width_refused : (Instr.jal 1 0x00100000).wellFormed = false := by decide

theorem test_jump_odd_refused : (Instr.jal 1 0x00000005).wellFormed = false := by decide

/-! ## Decoding: every constructor, from the words of 95_test_vectors.md and the family files -/

theorem test_decode_r :
    decode 0x002082B3 = .ok (.add 5 1 2) ∧ decode 0x402082B3 = .ok (.sub 5 1 2) ∧
    decode 0x002092B3 = .ok (.sll 5 1 2) ∧ decode 0x0020D2B3 = .ok (.srl 5 1 2) ∧
    decode 0x4020D2B3 = .ok (.sra 5 1 2) ∧ decode 0x022082B3 = .ok (.mul 5 1 2) ∧
    decode 0x0220C2B3 = .ok (.div 5 1 2) := by decide

theorem test_decode_immediate :
    decode 0x80010093 = .ok (.addi 1 2 0xFFFFF800) ∧ decode 0xFFF12093 = .ok (.slti 1 2 0xFFFFFFFF) ∧
    decode 0x00113093 = .ok (.sltiu 1 2 1) ∧ decode 0xFFF14093 = .ok (.xori 1 2 0xFFFFFFFF) ∧
    decode 0x00116093 = .ok (.ori 1 2 1) ∧ decode 0x00017093 = .ok (.andi 1 2 0) ∧
    decode 0x00000013 = .ok (.addi 0 0 0) := by decide

theorem test_decode_shift :
    decode 0x01F11093 = .ok (.slli 1 2 31) ∧ decode 0x40411093 = .ok (.slli 1 2 4) ∧
    decode 0x01F15093 = .ok (.srli 1 2 31) ∧ decode 0x41F15093 = .ok (.srai 1 2 31) ∧
    decode 0x40415093 = .ok (.srai 1 2 4) := by decide

theorem test_decode_upper :
    decode 0xFFFFF0B7 = .ok (.lui 1 0xFFFFF000) ∧ decode 0x00001097 = .ok (.auipc 1 0x1000) := by decide

theorem test_decode_load :
    decode 0x00010083 = .ok (.lb 1 2 0) ∧ decode 0x00211083 = .ok (.lh 1 2 2) ∧
    decode 0x00412083 = .ok (.lw 1 2 4) ∧ decode 0x00014083 = .ok (.lbu 1 2 0) ∧
    decode 0x00115083 = .ok (.lhu 1 2 1) ∧ decode 0xFFF10083 = .ok (.lb 1 2 0xFFFFFFFF) := by decide

theorem test_decode_store :
    decode 0x7E110FA3 = .ok (.sb 2 1 2047) ∧ decode 0x00111123 = .ok (.sh 2 1 2) ∧
    decode 0xFE112E23 = .ok (.sw 2 1 0xFFFFFFFC) ∧ decode 0x00113423 = .ok (.sd 2 1 8) := by decide

theorem test_decode_branch :
    decode 0x80000063 = .ok (.beq 0 0 0xFFFFF000) ∧ decode 0x00209463 = .ok (.bne 1 2 8) ∧
    decode 0xFE20CEE3 = .ok (.blt 1 2 0xFFFFFFFC) ∧ decode 0x0020D463 = .ok (.bge 1 2 8) ∧
    decode 0x0020E463 = .ok (.bltu 1 2 8) ∧ decode 0x0020F463 = .ok (.bgeu 1 2 8) ∧
    decode 0xF02080E3 = .ok (.beq 1 2 0xFFFFFF00) := by decide

theorem test_decode_jump :
    decode 0xFF9FF06F = .ok (.jal 0 0xFFFFFFF8) ∧ decode 0x7FF7F2EF = .ok (.jal 5 0x7FFFE) ∧
    decode 0xF01FF0EF = .ok (.jal 1 0xFFFFFF00) ∧ decode 0x004110E7 = .ok (.jalr 1 2 4) ∧
    decode 0x004100E7 = .ok (.jalr 1 2 4) ∧ decode 0xFFF100E7 = .ok (.jalr 1 2 0xFFFFFFFF) := by decide

theorem test_decode_inert :
    decode 0x00000000 = .ok .nop ∧ decode 0x00000073 = .ok .unknown ∧ decode 0x0000000F = .ok .unknown ∧
    decode 0xC00022F3 = .ok .unknown ∧ decode 0x00008000 = .ok .unknown := by decide

theorem test_decode_unsupported :
    decode 0x0020C2B3 = .error .rType ∧ decode 0x00013083 = .error .load ∧
    decode 0x00114023 = .error .store ∧ decode 0x0020A463 = .error .branch := by decide

/-- DEC6: SLLI 1, 2, 4 with raw[30] set, bit by bit: funct7, rs2, rs1, funct3, rd, opcode. -/
theorem test_decode_bits :
    decode (0b0100000#7 ++ 0b00100#5 ++ 0b00010#5 ++ 0b001#3 ++ 0b00001#5 ++ 0b0010011#7) =
      .ok (.slli 1 2 4) := by decide

theorem test_decode_table_word :
    decodeTableWord 32 0x002082B3 = some (.add 5 1 2) ∧ decodeTableWord 32 0x0020C2B3 = none := by decide

theorem test_encode_words :
    encode (.add 5 1 2) = 0x002082B3 ∧ encode (.sd 2 1 8) = 0x00113423 ∧
    encode (.blt 1 2 0xFFFFFFFC) = 0xFE20CEE3 ∧ encode (.jal 0 0xFFFFFFF8) = 0xFF9FF06F ∧
    encode (.srai 1 2 4) = 0x40415093 := by decide

/-! ## Whole instructions: the vectors RR, RI, LD, ST, BR and JP -/

theorem test_add_wraps : regAfter (exec (.add 5 1 2) (with12 0x7FFFFFFF 1)) 5 = some 0x80000000 := by decide

theorem test_add_x0_dropped : regAfter (exec (.add 0 1 2) (with12 3 4)) 0 = some 0 := by decide

theorem test_sub_wraps : regAfter (exec (.sub 5 1 2) (with12 0 1)) 5 = some 0xFFFFFFFF := by decide

theorem test_sll_by_33 : regAfter (exec (.sll 5 1 2) (with12 1 0x21)) 5 = some 2 := by decide

theorem test_srl : regAfter (exec (.srl 5 1 2) (with12 0x80000000 0x1F)) 5 = some 1 := by decide

theorem test_sra : regAfter (exec (.sra 5 1 2) (with12 0x80000000 0x1F)) 5 = some 0xFFFFFFFF := by decide

theorem test_sra_by_32 : regAfter (exec (.sra 5 1 2) (with12 0x80000000 0x20)) 5 = some 0x80000000 := by decide

theorem test_mul_low_half : regAfter (exec (.mul 5 1 2) (with12 0xFFFFFFFF 0xFFFFFFFF)) 5 = some 1 := by decide

theorem test_div_truncates :
    regAfter (exec (.div 5 1 2) (with12 0xFFFFFFF9 2)) 5 = some 0xFFFFFFFD ∧
    regAfter (exec (.div 5 1 2) (with12 7 0xFFFFFFFE)) 5 = some 0xFFFFFFFD ∧
    regAfter (exec (.div 5 1 2) (with12 0xFFFFFFF9 0xFFFFFFFE)) 5 = some 3 ∧
    regAfter (exec (.div 5 1 2) (with12 0x80000000 1)) 5 = some 0x80000000 ∧
    regAfter (exec (.div 5 1 2) (with12 0x80000000 0)) 5 = some 0 := by decide

/-- RR14, and the host's result where DIV_OVERFLOW names one. -/
theorem test_div_open_pair :
    faultOf (exec (.div 5 1 2) (with12 0x80000000 0xFFFFFFFF)) = some (.divOverflow ⟨0, 0, none⟩) ∧
    regAfter (exec (.div 5 1 2) (withDiv (with12 0x80000000 0xFFFFFFFF) (.value 77))) 5 = some 77 := by
  decide

theorem test_addi : regAfter (exec (.addi 1 2 0x7FF) (with12 0 0x7FFFFFFF)) 1 = some 0x800007FE := by decide

theorem test_slti_adds : regAfter (exec (.slti 1 2 0xFFFFFFFF) (with12 0 0)) 1 = some 0xFFFFFFFF := by decide

theorem test_sltiu_adds : regAfter (exec (.sltiu 1 2 1) (with12 0 5)) 1 = some 6 := by decide

theorem test_xori_adds : regAfter (exec (.xori 1 2 0xFFFFFFFF) (with12 0 5)) 1 = some 4 := by decide

theorem test_ori_adds : regAfter (exec (.ori 1 2 1) (with12 0 1)) 1 = some 2 := by decide

theorem test_andi_adds : regAfter (exec (.andi 1 2 0) (with12 0 0xFFFF)) 1 = some 0xFFFF := by decide

theorem test_slli : regAfter (exec (.slli 1 2 31) (with12 0 3)) 1 = some 0x80000000 := by decide

theorem test_srli : regAfter (exec (.srli 1 2 31) (with12 0 0xFFFFFFFF)) 1 = some 1 := by decide

theorem test_srai : regAfter (exec (.srai 1 2 31) (with12 0 0x80000000)) 1 = some 0xFFFFFFFF := by decide

theorem test_lui : regAfter (exec (.lui 1 0xFFFFF000) (with12 0x55 0)) 1 = some 0xFFFFF000 := by decide

theorem test_auipc : regAfter (exec (.auipc 1 0xFFFFF000) (atPc (with12 0 0) 8)) 1 = some 0xFFFFF008 := by
  decide

theorem test_lb_sign :
    regAfter (exec (.lb 1 2 0) (withBytes (with12 0 0x100) 0x100 [0x80])) 1 = some 0xFFFFFF80 := by decide

theorem test_lb_out_of_range : regAfter (exec (.lb 1 2 0xFFFFFFFF) (with12 0xDEADBEEF 0)) 1 = some 0 := by
  decide

theorem test_lh_odd_address :
    regAfter (exec (.lh 1 2 1) (withBytes (with12 0 0x100) 0x101 [0x00, 0x80])) 1 = some 0xFFFF8000 := by
  decide

theorem test_lhu :
    regAfter (exec (.lhu 1 2 1) (withBytes (with12 0 0x100) 0x101 [0x00, 0x80])) 1 = some 0x8000 := by
  decide

theorem test_lhu_out_of_range : regAfter (exec (.lhu 1 2 0) (with12 0xDEADBEEF 0x3FF)) 1 = some 0 := by decide

theorem test_lw_last_word :
    regAfter (exec (.lw 1 2 0) (withBytes (with12 0 0x3FC) 0x3FC [4, 3, 2, 1])) 1 = some 0x01020304 := by
  decide

theorem test_lw_out_of_range : regAfter (exec (.lw 1 2 0) (with12 0xDEADBEEF 0x3FD)) 1 = some 0 := by decide

theorem test_lbu :
    regAfter (exec (.lbu 1 2 0) (withBytes (with12 0 0x100) 0x100 [0x80])) 1 = some 0x80 := by decide

theorem test_sb_last_byte :
    memAfter (exec (.sb 2 1 0) (with12 0x12345678 0x3FF)) = some [(0x3FF, 0x78)] := by decide

theorem test_sh :
    memAfter (exec (.sh 2 1 0) (with12 0x12345678 0x3FE)) = some [(0x3FE, 0x78), (0x3FF, 0x56)] ∧
    memAfter (exec (.sh 2 1 0) (with12 0x12345678 0x3FF)) = some [] := by decide

theorem test_sw_misaligned :
    memAfter (exec (.sw 2 1 0) (with12 0x12345678 0x101)) =
      some [(0x101, 0x78), (0x102, 0x56), (0x103, 0x34), (0x104, 0x12)] := by decide

theorem test_sw_zero_bytes :
    memAfter (exec (.sw 2 0 0) (withBytes (with12 0 0x100) 0x100 [1, 2, 3, 4])) = some [] := by decide

theorem test_sd_out_of_range :
    memAfter (exec (.sd 2 1 0) (with12 0x12345678 0x3F9)) = some [] := by decide

theorem test_beq :
    pcAfterwards (exec (.beq 1 2 8) (atPc (with12 5 5) 0x100)) = some 0x108 ∧
    pcAfterwards (exec (.beq 1 2 8) (atPc (with12 5 6) 0x100)) = some 0x104 := by decide

theorem test_bne :
    pcAfterwards (exec (.bne 1 2 8) (atPc (with12 5 6) 0x100)) = some 0x108 ∧
    pcAfterwards (exec (.bne 1 2 8) (atPc (with12 5 5) 0x100)) = some 0x104 := by decide

theorem test_blt :
    pcAfterwards (exec (.blt 1 2 8) (atPc (with12 0xFFFFFFFF 1) 0x100)) = some 0x108 ∧
    pcAfterwards (exec (.blt 1 2 8) (atPc (with12 1 0xFFFFFFFF) 0x100)) = some 0x104 := by decide

theorem test_bge :
    pcAfterwards (exec (.bge 1 2 8) (atPc (with12 3 3) 0x100)) = some 0x108 ∧
    pcAfterwards (exec (.bge 1 2 8) (atPc (with12 0x80000000 0x7FFFFFFF) 0x100)) = some 0x104 := by decide

theorem test_bltu :
    pcAfterwards (exec (.bltu 1 2 8) (atPc (with12 1 0xFFFFFFFF) 0x100)) = some 0x108 ∧
    pcAfterwards (exec (.bltu 1 2 8) (atPc (with12 0xFFFFFFFF 1) 0x100)) = some 0x104 := by decide

theorem test_bgeu :
    pcAfterwards (exec (.bgeu 1 2 8) (atPc (with12 0xFFFFFFFF 1) 0x100)) = some 0x108 ∧
    pcAfterwards (exec (.bgeu 1 2 8) (atPc (with12 1 0xFFFFFFFF) 0x100)) = some 0x104 := by decide

theorem test_jal :
    pcAfterwards (exec (.jal 1 0xFFFFFF00) (atPc (with12 0 0) 0x100)) = some 0 ∧
    regAfter (exec (.jal 1 0xFFFFFF00) (atPc (with12 0 0) 0x100)) 1 = some 0x104 := by decide

theorem test_jalr_clears_bit_zero :
    pcAfterwards (exec (.jalr 1 2 4) (atPc (with12 0 0x101) 0x100)) = some 0x104 ∧
    regAfter (exec (.jalr 1 2 4) (atPc (with12 0 0x101) 0x100)) 1 = some 0x104 := by decide

theorem test_jalr_reads_old_register :
    pcAfterwards (exec (.jalr 1 1 0) (atPc (with12 0x200 0) 0x100)) = some 0x200 := by decide

theorem test_nop_and_unknown :
    exec .nop (with12 1 2) = .next (atPc (with12 1 2) 4) ∧
    exec .unknown (with12 1 2) = .next (atPc (with12 1 2) 4) := ⟨rfl, rfl⟩

/-! ## Cycles -/

/-- The very next step after a placed word fetches it. -/
theorem test_placed_word_is_fetched :
    (stateAfter State.reset (step (State.reset.withFetchWord 32 0x002082B3))).cur.ifid =
      ⟨decodeRecord 0x002082B3, 0, some 0⟩ := by decide

/-- The very next step after a placed word runs it: SRC2, SRC3, ST5, a load, BR1 and JAL, from the first word
of PROG. -/
theorem test_placed_word_runs :
    regAfter (step (State.reset.withFetchWord 32 0x00500093)) 1 = some 5 ∧
    regAfter (step ((with12 3 4).withFetchWord 32 0x002082B3)) 5 = some 7 ∧
    memAfter (step ((with12 0x12345678 0x3FC).withFetchWord 32 0x00112023)) =
      some [(0x3FC, 0x78), (0x3FD, 0x56), (0x3FE, 0x34), (0x3FF, 0x12)] ∧
    regAfter (step ((withBytes (with12 0 0x100) 0x100 [0x80]).withFetchWord 32 0x00010083)) 1 =
      some 0xFFFFFF80 ∧
    pcAfterwards (step ((with12 5 5).withFetchWord 32 0x00208463)) = some 8 ∧
    pcAfterwards (step (State.reset.withFetchWord 32 0x008000EF)) = some 8 ∧
    regAfter (step (State.reset.withFetchWord 32 0x008000EF)) 1 = some 4 := by decide

/-- A placed word with no operation is refused, and the open DIV pair faults, in the very next step. -/
theorem test_placed_word_stops :
    refusalOf (step (State.reset.withFetchWord 32 0x0020C2B3)) = some (.unsupported ⟨0, 0, some 0x0020C2B3⟩) ∧
    faultOf (step ((with12 0x80000000 0xFFFFFFFF).withFetchWord 32 0x0220C2B3)) =
      some (.divOverflow ⟨0, 0, some 0x0220C2B3⟩) := by decide

/-- Q4, the dependent add in ID behind its producer in EX: it stalls with FWD = false only. -/
theorem test_stall_by_mode :
    hazard false (flight false 0 0 0x00500093 0x00108133).cur (decodeRecord 0x00108133) = true ∧
    hazard true (flight true 0 0 0x00500093 0x00108133).cur (decodeRecord 0x00108133) = false := by decide

/-- Q5, the load-use hazard: it stalls with FWD = true too. -/
theorem test_load_use_stalls :
    (stateAfter State.reset (step (flight true 0 0 0x00002083 0x00108133))).pc = 16 ∧
    (stateAfter State.reset (step (flight true 0 0 0x00002083 0x00108133))).cur.idex = IdEx.empty := by decide

/-- A branch one behind the producer of its operand stalls with FWD = true. -/
theorem test_branch_waits :
    hazard true (flight true 0 0 0x00800093 0x00008463).cur (decodeRecord 0x00008463) = true ∧
    hazard true (flight true 0 0x00002083 0 0x00008463).cur (decodeRecord 0x00008463) = true ∧
    hazard true (flight true 0 0x00800093 0 0x00008463).cur (decodeRecord 0x00008463) = false := by decide

/-- P1, a taken branch in ID: pc at the target and the fetch squashed. -/
theorem test_branch_squashes :
    (stateAfter State.reset (step (flight true 0 0 0 0x00208463))).pc = 20 ∧
    (stateAfter State.reset (step (flight true 0 0 0 0x00208463))).cur.ifid = IfId.empty := by decide

/-- OUT5: the open DIV in EX ends its cycle. -/
theorem test_div_overflow_ends_cycle :
    faultOf (step (withExOperands (flight false 0 0 0x0220C1B3 0) 0x80000000 0xFFFFFFFF)) =
      some (.divOverflow ⟨4, 8, some 0x0220C1B3⟩) := by decide

/-- RR15: the unsupported word in ID is refused. -/
theorem test_unsupported_refused :
    refusalOf (step (flight true 0 0 0 0x0020C2B3)) = some (.unsupported ⟨4, 12, some 0x0020C2B3⟩) := by
  decide

/-- OUT4: a fetch from address 6; and where the host names what it reads, that, with no id. -/
theorem test_misaligned_fetch :
    faultOf (step (atPc State.reset 6)) = some (.misalignedFetch ⟨0, 6, none⟩) ∧
    (stateAfter State.reset (step (withMisaligned (atPc State.reset 6) (.reads (some 0x00500093))))).cur.ifid =
      ⟨decodeRecord 0x00500093, 6, none⟩ := by decide

/-- R384, and the mark it sets, after which no cycle is performed. -/
theorem test_out_of_range_option :
    faultOf (step (withExAddress (withOob (flight true 0 0x00012083 0 0) .fault) 0x3FD)) =
      some (.outOfRange ⟨4, 4, some 0x00012083⟩) ∧
    runCycle (runCycle (atPc State.reset 6)) = runCycle (atPc State.reset 6) := by decide

/-! ## Witnesses: a concrete state and operands for the hypotheses of each statement -/

/-- The invariant as a computation. -/
def invHolds (s : State) : Bool :=
  (s.mem.wf && s.mem.bounded) && s.regs[0] == 0 &&
  (decide (s.nxt = s.cur) && decide (s.stalled = false) && decide (s.redirect = none) &&
    decide (s.activity = .whole)) &&
  (decoded s.cur.ifid.ins && labelled s.input.prog s.cur.ifid.ins s.cur.ifid.pc s.cur.ifid.id) &&
  (issued s.cur.idex.ins s.cur.idex.ctl &&
    labelled s.input.prog s.cur.idex.ins s.cur.idex.pc s.cur.idex.id) &&
  (issued s.cur.exmem.ins s.cur.exmem.ctl &&
    labelled s.input.prog s.cur.exmem.ins s.cur.exmem.pc s.cur.exmem.id) &&
  (issued s.cur.memwb.ins s.cur.memwb.ctl &&
    labelled s.input.prog s.cur.memwb.ins s.cur.memwb.pc s.cur.memwb.id) &&
  decide ((s.cur.idex.ins.rs1 = none → s.cur.idex.a = 0) ∧ (s.cur.idex.ins.rs2 = none → s.cur.idex.b = 0) ∧
    (s.cur.memwb.ctl.memRead = false → s.cur.memwb.memData = 0)) &&
  (s.log.all fun e => decide (e.cycle < s.cycle))

theorem inv_of_holds {s : State} (h : invHolds s = true) : Inv s := by
  simp only [invHolds, Bool.and_eq_true, decide_eq_true_eq, beq_iff_eq] at h
  obtain ⟨⟨⟨⟨⟨⟨⟨⟨hm, hz⟩, hs⟩, h1⟩, h2⟩, h3⟩, h4⟩, hu⟩, hp⟩ := h
  exact ⟨by simpa using hm, hz, ⟨hs.1.1.1, hs.1.1.2, hs.1.2, hs.2⟩, by simpa using h1, by simpa using h2,
    by simpa using h3, by simpa using h4, hu, hp⟩

theorem not_faultsInMem {s : State} (h : s.input.oobPolicy = .ignore) : ¬faultsInMem s :=
  fun hf => nomatch h.symm.trans hf.1

theorem not_faultsInEx {s : State} {i : Instr} (h : s.cur.idex.ins.instr = .ok i)
    (hi : ∀ rd rs1 rs2, i ≠ .div rd rs1 rs2) : ¬faultsInEx s := by
  rintro ⟨_, rd, rs1, rs2, hd, _⟩
  rw [h] at hd
  exact hi rd rs1 rs2 (Except.ok.inj hd)

/-- addi x1 in WB, sw x1 in MEM, addi x3 in EX, add x2, x1, x1 in ID: no hazard in either mode. -/
def busy (fwd : Bool) : State := flight fwd 0x00500093 0x00102223 0x00300193 0x00108133

/-- addi x1 in EX, add x2, x1, x1 in ID, with FWD = false: two stalls. -/
def stalling : State := flight false 0 0 0x00500093 0x00108133

/-- beq x1, x2, 8 in ID. -/
def branching : State := flight true 0 0 0 0x00208463

/-- lw x1, 0(x2) in MEM at an address. -/
def loading (a : Word) : State := withExAddress (flight true 0 0x00012083 0 0) a

/-- sd x1, 0(x2) in MEM at an address. -/
def storing (a : Word) : State := withExAddress (flight true 0 0x00113023 0 0) a

/-- div x3, x1, x2 in EX on the open pair. -/
def dividing : State := withExOperands (flight false 0 0 0x0220C1B3 0) 0x80000000 0xFFFFFFFF

theorem witness_encoding :
    (Instr.jalr 1 2 0x7FF).wellFormed = true ∧ (Instr.beq 1 2 0xFFFFF000).wellFormed = true ∧
    decode 0x004110E7 = .ok (.jalr 1 2 4) ∧ Instr.jalr 1 2 4 ≠ .unknown ∧
    decode 0x40411093 = .ok (.slli 1 2 4) := by decide

theorem witness_unsupported :
    (Inv (flight true 0 0 0 0x0020C2B3) ∧ ¬faultsInEx (flight true 0 0 0 0x0020C2B3) ∧
      decode 0x0020C2B3 = .error .rType ∧
      hazard true (flight true 0 0 0 0x0020C2B3).cur (decodeRecord 0x0020C2B3) = false) ∧
    (Inv (flight false 0 0 0x00500093 0x0020C2B3) ∧ ¬faultsInEx (flight false 0 0 0x00500093 0x0020C2B3) ∧
      hazard false (flight false 0 0 0x00500093 0x0020C2B3).cur (decodeRecord 0x0020C2B3) = true) :=
  ⟨⟨inv_of_holds (by decide), not_faultsInEx (i := .nop) rfl (by intros; simp), by decide, by decide⟩,
    inv_of_holds (by decide), not_faultsInEx (i := .addi 1 0 5) rfl (by intros; simp), by decide⟩

theorem witness_shift_amounts :
    0 = (0x00000020 : Word).toNat % 32 ∧ 31 = (0xFFFFFFFF : Word).toNat % 32 ∧
    31 = ((with12 1 0x3F).readReg 2).toNat % 32 := by decide

/-- R131's rows that stand for no instruction, and the fields of their words. -/
theorem witness_other_signals :
    (opcodeOf 0x0020C2B3 = 0x33 ∧ (funct7Of 0x0020C2B3, funct3Of 0x0020C2B3) ∉
      [(0x00#7, 0x0#3), (0x20, 0x0), (0x00, 0x1), (0x00, 0x5), (0x20, 0x5), (0x01, 0x0), (0x01, 0x4)]) ∧
    opcodeOf 0x00013083 = 0x03 ∧ opcodeOf 0x00114023 = 0x23 ∧ opcodeOf 0x0020A463 = 0x63 := by decide

theorem witness_division :
    ((2 : Word) ≠ 0 ∧ ¬((0x80000000 : Word) = 0x80000000 ∧ (2 : Word) = 0xFFFFFFFF)) ∧
    ((with12 0x80000000 0xFFFFFFFF).readReg 1 = 0x80000000 ∧
      (with12 0x80000000 0xFFFFFFFF).readReg 2 = 0xFFFFFFFF ∧
      (with12 0x80000000 0xFFFFFFFF).input.divOverflow = .fault ∧
      (withDiv (with12 0x80000000 0xFFFFFFFF) (.value 5)).input.divOverflow = .value 5) ∧
    ((doing dividing .ex).activity = .ex ∧ (doing dividing .ex).input.divOverflow = .fault ∧
      (doing dividing .ex).operandInEx (some 1) (doing dividing .ex).cur.idex.a = 0x80000000 ∧
      (doing dividing .ex).operandInEx (some 2) (doing dividing .ex).cur.idex.b = 0xFFFFFFFF) := by decide

/-- Both sides of the bounds check, for an access of four and of eight bytes. -/
theorem witness_memory_bounds :
    ((with12 0 0).mem.wf = true ∧ (with12 0 0).input.oobPolicy = .ignore) ∧
    (0x3FC : Word).toNat + 4 ≤ Config.memSize ∧ Config.memSize < (0x3FD : Word).toNat + 4 ∧
    (0x3F8 : Word).toNat + 8 ≤ Config.memSize ∧ Config.memSize < (0x3F9 : Word).toNat + 8 ∧
    Config.memSize < (0xFFFFFFFF : Word).toNat + 1 := by decide

theorem witness_word_store : ((with12 0 0).store .word 0x3FC 0x12345678).isSome = true := by decide

theorem witness_canonical_memories :
    ∃ m m' : Memory, m.wf = true ∧ m'.wf = true ∧ (∀ a, m.read a = m'.read a) ∧ m ≠ [] :=
  ⟨[(3, 1)], [(3, 1)], by decide, by decide, fun _ => rfl, by decide⟩

/-- A whole instruction's hypotheses: between cycles, at the edges of the address range. -/
theorem witness_whole_instruction :
    (with12 7 0x3FC).activity = .whole ∧ (with12 7 0x3FC).mem.wf = true ∧
    (with12 7 0x3FC).input.oobPolicy = .ignore ∧ 0x3FC = ((with12 7 0x3FC).readReg 2 + 0).toNat ∧
    0x3FD = ((with12 7 0x3FC).readReg 2 + 1).toNat ∧ (doing (with12 5 5) .id).activity = .id ∧
    (doing (with12 5 5) .ex).activity = .ex := by decide

/-- Words with the fields that each encoding clause asks for. -/
theorem witness_word_fields :
    (opcodeOf 0x022082B3 = 0x33 ∧ funct7Of 0x022082B3 = 0x01 ∧ funct3Of 0x022082B3 = 0) ∧
    (opcodeOf 0x4020D2B3 = 0x33 ∧ funct7Of 0x4020D2B3 = 0x20 ∧ funct3Of 0x4020D2B3 = 5) ∧
    (opcodeOf 0x0220C2B3 = 0x33 ∧ funct7Of 0x0220C2B3 = 0x01 ∧ funct3Of 0x0220C2B3 = 4) ∧
    (opcodeOf 0x00017093 = 0x13 ∧ funct3Of 0x00017093 = 7) ∧
    (opcodeOf 0x41F15093 = 0x13 ∧ funct3Of 0x41F15093 = 5 ∧ (0x41F15093 : Word).getLsbD 30 = true) ∧
    opcodeOf 0xFFFFF0B7 = 0x37 ∧ opcodeOf 0x00001097 = 0x17 ∧
    (opcodeOf 0x00115083 = 0x03 ∧ funct3Of 0x00115083 = 5) ∧
    (opcodeOf 0x00113423 = 0x23 ∧ funct3Of 0x00113423 = 3) ∧
    (opcodeOf 0x0020F463 = 0x63 ∧ funct3Of 0x0020F463 = 7) ∧
    opcodeOf 0xFF9FF06F = 0x6F ∧ opcodeOf 0x004110E7 = 0x67 := by decide

theorem witness_completion :
    (with12 0x80000000 1).activity = .whole ∧ (with12 0x80000000 1).input.oobPolicy = .ignore ∧
    ∀ rd rs1 rs2 : Reg, Instr.div 5 1 2 = .div rd rs1 rs2 →
      (with12 0x80000000 1).input.divOverflow = .fault →
      ¬((with12 0x80000000 1).readReg rs1 = 0x80000000 ∧ (with12 0x80000000 1).readReg rs2 = 0xFFFFFFFF) := by
  refine ⟨rfl, rfl, fun rd rs1 rs2 h _ => ?_⟩
  cases h
  decide

theorem witness_inert :
    (doing (busy true) .whole).activity = .whole ∧ (doing (busy true) .mem).activity ≠ .whole ∧
    (doing (busy true) .id).activity = .id := by decide

theorem witness_x0 :
    ((Instr.add 0 1 2).dest = some 0 ∧ isNext (exec (.add 0 1 2) (with12 3 4)) = true) ∧
    ((flight true 0x00500013 0 0 0).cur.memwb.ins.rd = some 0 ∧
      isNext (step (flight true 0x00500013 0 0 0)) = true) := by decide

theorem witness_whole_frames :
    ((Instr.lw 1 2 0).storeKind = none ∧ isNext (exec (.lw 1 2 0) (with12 7 0x3FC)) = true) ∧
    isNext (exec (.sb 2 1 0) (with12 7 0x3FF)) = true ∧ isNext (exec (.sh 2 1 0) (with12 7 0x3FE)) = true ∧
    isNext (exec (.sw 2 1 0) (with12 7 0x3FC)) = true ∧ isNext (exec (.sd 2 1 0) (with12 7 0x3F9)) = true := by
  decide

theorem witness_stage_frames :
    isNext (exec (.addi 1 0 5) (doing (busy true) .wb)) = true ∧
    isNext (exec (.sw 0 1 4) (doing (busy true) .mem)) = true ∧
    (busy true).cur.exmem.ctl.memWrite = true ∧ (loading 0).cur.exmem.ctl.memWrite = false ∧
    isNext (exec (.lw 1 2 0) (doing (loading 0) .mem)) = true ∧
    isNext (exec (.sd 2 1 0) (doing (storing 0x3F8) .mem)) = true ∧
    (storing 0x3F8).cur.exmem.ctl.memWrite = true ∧
    isNext (exec (.addi 3 0 3) (doing (busy true) .ex)) = true ∧
    isNext (exec (.add 2 1 1) (doing (busy true) .id)) = true := by decide

theorem witness_out_of_range_option :
    (accessSize (.lw 1 2 0) = some 4 ∧ (loading 0x3FD).cur.exmem.ctl = signalTable (.lw 1 2 0) ∧
      (withOob (loading 0x3FD) .fault).input.oobPolicy = .fault ∧
      Config.memSize < (loading 0x3FD).cur.exmem.aluResult.toNat + 4 ∧
      (loading 0x3FC).cur.exmem.aluResult.toNat + 4 ≤ Config.memSize) ∧
    isNext (wbStage (withOob (loading 0x3FD) .fault)) = true ∧
    (faultOf (memStage (stateAfter State.reset (wbStage (withOob (loading 0x3FD) .fault))))).isSome = true := by
  decide

theorem witness_round_trip :
    isNext (exec (.sw 2 1 0) (with12 7 0x3FC)) = true ∧
    (with12 7 0x3FC).readReg 2 + 0 = (with12 7 0x3FC).readReg 0 + 0x3FC ∧
    ((with12 7 0x3FC).readReg 2 + 0).toNat + 4 ≤ Config.memSize := by decide

theorem witness_step_runs :
    ((busy true).mark = none ∧ (busy true).cur.memwb.ins.instr = .ok (.addi 1 0 5) ∧
      (busy true).cur.exmem.ins.instr = .ok (.sw 0 1 4) ∧ (busy true).cur.idex.ins.instr = .ok (.addi 3 0 3) ∧
      (busy true).cur.ifid.ins.instr = .ok (.add 2 1 1)) ∧
    (isNext (step (State.reset.withFetchWord 32 0x00500093)) = true ∧
      fetches (State.reset.withFetchWord 32 0x00500093) = true ∧
      (State.reset.withFetchWord 32 0x00500093).input.prog[0]? = some 0x00500093 ∧
      (State.reset.withFetchWord 32 0x00500093).pc.toNat % 4 = 0 ∧
      decode 0x00500093 = .ok (.addi 1 0 5)) ∧
    (isNext (step (withMisaligned (atPc State.reset 6) (.reads (some 0x00500093)))) = true ∧
      fetches (withMisaligned (atPc State.reset 6) (.reads (some 0x00500093))) = true ∧
      (withMisaligned (atPc State.reset 6) (.reads (some 0x00500093))).pc.toNat % 4 ≠ 0) := by decide

/-- addi x1, x2, 5, and the DIV x5, x1, x2 of two other registers where DIV_OVERFLOW is a fault. -/
theorem witness_placed_word :
    (State.reset.activity = .whole ∧ decode 0x00510093 = .ok (.addi 1 2 5) ∧
      isNext (exec (.addi 1 2 5) (State.reset.withFetchWord 32 (0x00510093 : Word).toNat)) = true ∧
      redirects (decodeRecord 0x00510093) = false) ∧
    (decode 0x0220C2B3 = .ok (.div 5 1 2) ∧ (with12 7 2).input.divOverflow = .fault ∧
      isNext (exec (.div 5 1 2) ((with12 7 2).withFetchWord 32 (0x0220C2B3 : Word).toNat)) = true ∧
      (5 : Reg) ≠ 1 ∧ (5 : Reg) ≠ 2) := by decide

theorem witness_invariant_states :
    Inv (busy true) ∧ Inv (busy false) ∧ Inv stalling ∧ Inv branching ∧ Inv (loading 0x3FC) ∧
    Inv (loading 0x3FD) ∧ Inv (storing 0x3F8) ∧ Inv (storing 0x3F9) ∧ Inv dividing :=
  ⟨inv_of_holds (by decide), inv_of_holds (by decide), inv_of_holds (by decide), inv_of_holds (by decide),
    inv_of_holds (by decide), inv_of_holds (by decide), inv_of_holds (by decide), inv_of_holds (by decide),
    inv_of_holds (by decide)⟩

/-- Cycles that answer a next state, from the states above. -/
theorem witness_cycles :
    isNext (step (busy true)) = true ∧ isNext (step (busy false)) = true ∧ isNext (step stalling) = true ∧
    isNext (step branching) = true ∧ isNext (step (loading 0x3FC)) = true ∧
    isNext (step (loading 0x3FD)) = true ∧ isNext (step (storing 0x3F8)) = true ∧
    isNext (step (storing 0x3F9)) = true ∧ (loading 0x3FC).input.oobPolicy = .ignore ∧
    (loading 0x3FC).cur.exmem.ins.instr = .ok (.lw 1 2 0) ∧
    (storing 0x3F8).cur.exmem.ins.instr = .ok (.sd 2 1 0) ∧
    (busy true).cur.memwb.ins.rd = (busy true).cur.exmem.ins.rs2 := by decide

theorem witness_hazards :
    hazard false (busy false).cur (busy false).cur.ifid.ins = false ∧
    hazard true (busy true).cur (busy true).cur.ifid.ins = false ∧
    hazard false stalling.cur stalling.cur.ifid.ins = true ∧ stalling.cur.ifid.id = some 3 ∧
    stalling.cur.memwb.id ≠ some 3 ∧ stalling.cur.exmem.id ≠ some 3 ∧ stalling.cur.idex.id ≠ some 3 := by
  decide

theorem witness_third_stall :
    isNext (step stalling) = true ∧ isNext (step (stateAfter State.reset (step stalling))) = true ∧
    hazard false (stateAfter State.reset (step stalling)).cur
      (stateAfter State.reset (step stalling)).cur.ifid.ins = true := by decide

theorem witness_resolution :
    hazard true branching.cur branching.cur.ifid.ins = false ∧
    redirectOf branching.cur.ifid.ins branching.cur.ifid.pc
      (stateAfter State.reset (step branching)).cur.idex.a
      (stateAfter State.reset (step branching)).cur.idex.b = some 20 ∧
    isNext (step (stateAfter State.reset (step branching))) = true := by decide

/-- A fetch past PROG, of a zero word, and of another word. -/
theorem witness_fetches :
    (isNext (step State.reset) = true ∧ fetches State.reset = true ∧ State.reset.pc.toNat % 4 = 0 ∧
      State.reset.input.prog.length ≤ 0) ∧
    (isNext (step (State.reset.withFetchWord 32 0)) = true ∧
      (State.reset.withFetchWord 32 0).input.prog[0]? = some 0) ∧
    (isNext (step (State.reset.withFetchWord 32 0x73)) = true ∧
      (State.reset.withFetchWord 32 0x73).input.prog[0]? = some 0x73 ∧ (0x73 : Word) ≠ 0) := by decide

theorem witness_outcome_in_mem :
    Inv (withOob (loading 0x3FD) .fault) ∧ faultsInMem (withOob (loading 0x3FD) .fault) :=
  ⟨inv_of_holds (by decide), rfl, .lw 1 2 0, 4, rfl, rfl, by decide⟩

theorem witness_outcome_in_ex : Inv dividing ∧ ¬faultsInMem dividing ∧ faultsInEx dividing :=
  ⟨inv_of_holds (by decide), not_faultsInMem rfl, rfl, 3, 1, 2, rfl, by decide, by decide⟩

theorem witness_outcome_in_id :
    Inv (flight true 0 0 0 0x0020C2B3) ∧ ¬faultsInMem (flight true 0 0 0 0x0020C2B3) ∧
    ¬faultsInEx (flight true 0 0 0 0x0020C2B3) ∧ refusedInId (flight true 0 0 0 0x0020C2B3) :=
  ⟨inv_of_holds (by decide), not_faultsInMem rfl, not_faultsInEx (i := .nop) rfl (by intros; simp),
    by decide, by decide⟩

theorem witness_outcome_in_if :
    Inv (atPc State.reset 6) ∧ ¬faultsInMem (atPc State.reset 6) ∧ ¬faultsInEx (atPc State.reset 6) ∧
    ¬refusedInId (atPc State.reset 6) ∧ faultsInIf (atPc State.reset 6) :=
  ⟨inv_of_holds (by decide), not_faultsInMem rfl, not_faultsInEx (i := .nop) rfl (by intros; simp),
    fun h => absurd h.2 (by decide), rfl, by decide, by decide⟩

theorem witness_no_outcome :
    Inv (busy true) ∧ (busy true).mark = none ∧ ¬faultsInMem (busy true) ∧ ¬faultsInEx (busy true) ∧
    ¬refusedInId (busy true) ∧ ¬faultsInIf (busy true) :=
  ⟨inv_of_holds (by decide), rfl, not_faultsInMem rfl,
    not_faultsInEx (i := .addi 3 0 3) rfl (by intros; simp), fun h => absurd h.2 (by decide),
    fun h => absurd h.2.2 (by decide)⟩

theorem witness_runs :
    (runCycle (atPc State.reset 6)).mark ≠ none ∧ (runCycles 2 State.reset).mark = none ∧
    (run { State.reset with input := { State.reset.input with totalCycles := 2 } }).mark = none := by decide

theorem witness_log :
    logCell [⟨3, 4, .EX⟩] 3 4 ≠ [] ∧ StageName.EX ≠ .dash ∧ StageName.EX ∈ logCell [⟨3, 4, .EX⟩] 3 4 ∧
    (3 : Nat) ≠ (busy true).cycle := by decide

theorem witness_dash_alone : dashAlone (busy true).log := by
  intro id cycle h
  cases h

theorem witness_x0_hazards :
    (flight true 0x00500013 0x00500013 0x00500013 0x00000013).cur.idex.ins.rd = some 0 ∧
    (flight true 0x00500013 0x00500013 0x00500013 0x00000013).cur.exmem.ins.rd = some 0 ∧
    (flight true 0x00500013 0x00500013 0x00500013 0x00000013).cur.memwb.ins.rd = some 0 ∧
    (decodeRecord 0x00000013).sources = [0] := by decide

theorem witness_mem_wb_arm :
    isNext (step (busy true)) = true ∧ (1 : Reg) ≠ 0 ∧ (busy true).cur.memwb.ctl.regWrite = true ∧
    (busy true).cur.memwb.ins.rd = some 1 ∧
    ¬((busy true).cur.exmem.ctl.regWrite = true ∧ (busy true).cur.exmem.ins.rd = some 1 ∧
      (busy true).cur.exmem.ctl.memRead = false) := by decide

/-- A producer in ID/EX that delays an ordinary consumer with FWD = false only, a load in EX/MEM that delays a
branch, and a non-load there that does not. -/
theorem witness_stall_conditions :
    hazard false stalling.cur stalling.cur.ifid.ins = true ∧
    hazard true stalling.cur stalling.cur.ifid.ins = false ∧ stalling.cur.idex.ins.rd = some 1 ∧
    hazard true (flight true 0 0x00002083 0 0x00008463).cur (decodeRecord 0x00008463) = true ∧
    hazard true (flight true 0 0x00500093 0 0x00008463).cur (decodeRecord 0x00008463) = false := by decide

theorem witness_forwarding :
    stalling.cur.idex.ctl.memRead = false ∧ stalling.cur.ifid.ins.opcode ≠ 0x63 ∧
    stalling.cur.ifid.ins.opcode ≠ 0x67 := by decide

theorem witness_construction :
    1023 < Config.memSize ∧ 1023 < (List.replicate 1024 (7 : Byte)).length ∧ (31 : Reg) ≠ 0 := by
  refine ⟨by decide, ?_, by decide⟩
  rw [List.length_replicate]
  decide

/-- One NOP and then a word, at address 4, in an empty pipeline. -/
def aloneAtFour (w : Word) : State :=
  { State.reset with
    pc := 4
    input := { Inputs.default with prog := [0, w] } }

/-- addi x1, x2, 5 meets every hypothesis in one state. -/
theorem witness_retired_alone :
    (aloneAtFour 0x00510093).cur = Latches.empty ∧ (aloneAtFour 0x00510093).mark = none ∧
    (aloneAtFour 0x00510093).activity = .whole ∧ 4 * 1 < 2 ^ 32 ∧
    (aloneAtFour 0x00510093).pc = BitVec.ofNat 32 (4 * 1) ∧
    (aloneAtFour 0x00510093).input.prog = List.replicate 1 0 ++ [0x00510093] ∧
    decode 0x00510093 = .ok (.addi 1 2 5) ∧
    exec (.addi 1 2 5) (aloneAtFour 0x00510093) =
      .next (stateAfter State.reset (exec (.addi 1 2 5) (aloneAtFour 0x00510093))) ∧
    (stateAfter State.reset (exec (.addi 1 2 5) (aloneAtFour 0x00510093))).pc.toNat % 4 = 0 ∧
    (∀ rd rs1 imm, Instr.addi 1 2 5 = .jalr rd rs1 imm →
      (stateAfter State.reset (exec (.addi 1 2 5) (aloneAtFour 0x00510093))).pc ≠ (aloneAtFour 0x00510093).pc) :=
  ⟨rfl, rfl, rfl, by decide, rfl, rfl, by decide, next_stateAfter (by decide), by decide,
    fun _ _ _ h => nomatch h⟩

/-- jalr x1, 4(x0) at address 4 jumps to itself, and its five cycles complete. -/
theorem witness_self_jump_alone :
    decode 0x004000E7 = .ok (.jalr 1 0 4) ∧
    pcAfterwards (exec (.jalr 1 0 4) (aloneAtFour 0x004000E7)) = some 4 ∧
    isNext (Host.Core.run Sys2Proof.core 5 (aloneAtFour 0x004000E7)) = true := by decide

theorem witness_pipeline :
    (isNext (step (busy true)) = true ∧ isNext (drain 6 (stateAfter State.reset (step (busy true)))) = true ∧
      fetches (busy true) = true) ∧
    (isNext (step branching) = true ∧ isNext (drain 6 (stateAfter State.reset (step branching))) = true ∧
      fetches branching = false) := by decide

end Sys2Proof.Tests
end

section
/-! O46: the construction inputs stay as they were given (00_scope.md R15). Each stage of a cycle keeps them,
so a cycle does, so a step does, and any number of cycles by induction. -/

namespace Sys2Proof.Machine

/-! ## The parts of a cycle keep the inputs -/

theorem State.access_input {s t : State} {load : Option LoadKind} {store : Option StoreKind} {ea d v : Word}
    (h : s.access load store ea d = some (v, t)) : t.input = s.input := by
  rw [State.access_frame h]

theorem wbStage_input {s t : State} (h : wbStage s = .next t) : t.input = s.input := by
  obtain ⟨i, _, rfl⟩ := wbStage_cases h
  split <;> simp

/-- MEM may store, and a store reaches data memory only, never the instruction store. -/
theorem memStage_input {s t : State} (h : memStage s = .next t) : t.input = s.input := by
  obtain ⟨i, v, u, _, haccess, rfl⟩ := memStage_cases h
  simpa using State.access_input haccess

theorem exStage_input {s t : State} (h : exStage s = .next t) : t.input = s.input := by
  obtain ⟨i, w, r, _, _, _, rfl⟩ := exStage_cases h
  simp

theorem idStage_input {s t : State} (h : idStage s = .next t) : t.input = s.input := by
  rcases idStage_cases h with ⟨_, rfl⟩ | ⟨_, i, w, _, _, rfl⟩
  · exact stallInId_input s
  · simp

theorem ifStage_input {s t : State} (h : ifStage s = .next t) : t.input = s.input := by
  rcases ifStage_cases h with ⟨_, rfl⟩ | ⟨_, _, _, rfl⟩
  · exact holdOrSquash_input s
  · simp

/-! ## Cycles, steps and runs keep the inputs -/

theorem oneCycle_input {s t : State} (h : oneCycle s = .next t) : t.input = s.input := by
  obtain ⟨s1, s2, s3, s4, s5, hwb, hmem, hex, hid, hif, rfl⟩ := oneCycle_cases h
  calc (commit s5).input = s5.input := commit_input s5
    _ = s4.input := ifStage_input hif
    _ = s3.input := idStage_input hid
    _ = s2.input := exStage_input hex
    _ = s1.input := memStage_input hmem
    _ = s.input := wbStage_input hwb

theorem step_input {s t : State} (h : step s = .next t) : t.input = s.input :=
  oneCycle_input (step_cases h).2

/-- A cycle that ends in an outcome is abandoned whole and only sets the mark (50_pipeline.md R353). -/
@[simp] theorem runCycle_input (s : State) : (runCycle s).input = s.input := by
  unfold runCycle
  split
  · next t hstep => exact step_input hstep
  · rfl
  · rfl

@[simp] theorem runCycles_input (k : Nat) (s : State) : (runCycles k s).input = s.input := by
  induction k generalizing s with
  | zero => rfl
  | succ k ih => exact (ih (runCycle s)).trans (runCycle_input s)

/-- Settles O46, by induction on the number of cycles; each cycle keeps the inputs stage by stage. -/
theorem inputsNeverChange : Obligations.InputsNeverChange := by
  unfold Obligations.InputsNeverChange
  exact fun s k => runCycles_input k s

end Sys2Proof.Machine
end

section
/-! Step rules: what each stage of a cycle leaves unchanged, what WB and ID make of the records they hold, and
what a whole step therefore does with the register file, ID/EX, pc, the counter and the mark. -/

namespace Sys2Proof.Machine

/-! ## Readers that see only part of the state -/

theorem State.readReg_congr {s t : State} (h : t.regs = s.regs) (r : Reg) : t.readReg r = s.readReg r := by
  simp [State.readReg, h]

theorem State.writeDest_regs_congr {s t : State} (h : t.regs = s.regs) (r : Option Reg) (v : Word) :
    (t.writeDest r v).regs = (s.writeDest r v).regs := by
  cases r with
  | none => exact h
  | some r =>
    by_cases hr : r = 0#5
    · simpa [hr] using h
    · simp [State.writeReg_regs hr, h]

theorem State.operandInId_congr {s t : State} (hinput : t.input = s.input) (hcur : t.cur = s.cur)
    (hregs : t.regs = s.regs) (r : Option Reg) : t.operandInId r = s.operandInId r := by
  cases r with
  | none => rfl
  | some r => simp [State.operandInId, State.bypass, State.readReg_congr hregs, hinput, hcur]

/-- Without forwarding ID reads the register file itself (50_pipeline.md R314). -/
theorem State.operandInId_of_not_fwd {s : State} (h : s.input.fwd = false) (r : Reg) :
    s.operandInId (some r) = s.readReg r := by
  simp [State.operandInId, State.bypass, h]

/-- A read after a write to an optional destination (10_state.md R31). -/
theorem State.readReg_writeDest (s : State) (rd : Option Reg) (v : Word) (r : Reg) :
    (s.writeDest rd v).readReg r = if rd = some r ∧ r ≠ 0 then v else s.readReg r := by
  cases rd with
  | none => simp
  | some d =>
    rw [State.writeDest_some, State.readReg_writeReg]
    by_cases hd : d = r
    · simp [hd]
    · simp [hd, Ne.symm hd]

/-! ## What each stage leaves unchanged -/

theorem State.writeDest_frame (s : State) (r : Option Reg) (v : Word) :
    s.writeDest r v = { s with regs := (s.writeDest r v).regs } := by
  cases r with
  | none => rfl
  | some r =>
    rw [State.writeDest_some, State.writeReg]
    split <;> rfl

theorem wbStage_frame {s t : State} (h : wbStage s = .next t) :
    t = { s with regs := t.regs, log := t.log, activity := t.activity } := by
  obtain ⟨i, _, rfl⟩ := wbStage_cases h
  split
  · rw [State.writeDest_frame]
    cases s.cur.memwb.id <;> rfl
  · cases s.cur.memwb.id <;> rfl

theorem memStage_frame {s t : State} (h : memStage s = .next t) :
    t = { s with
      mem := t.mem, draws := t.draws, log := t.log, activity := t.activity
      nxt := { s.nxt with memwb := t.nxt.memwb } } := by
  obtain ⟨i, v, u, _, haccess, rfl⟩ := memStage_cases h
  rw [State.access_frame haccess]
  cases s.cur.exmem.id <;> rfl

theorem exStage_frame {s t : State} (h : exStage s = .next t) :
    t = { s with
      log := t.log, activity := t.activity, nxt := { s.nxt with exmem := t.nxt.exmem } } := by
  obtain ⟨i, w, r, _, _, _, rfl⟩ := exStage_cases h
  cases s.cur.idex.id <;> rfl

theorem idStage_frame {s t : State} (h : idStage s = .next t) :
    t = { s with
      log := t.log, activity := t.activity, stalled := t.stalled, redirect := t.redirect
      nxt := { s.nxt with idex := t.nxt.idex } } := by
  rcases idStage_cases h with ⟨_, rfl⟩ | ⟨_, i, w, _, _, rfl⟩
  · unfold stallInId
    cases s.cur.ifid.id <;> rfl
  · cases s.cur.ifid.id <;> rfl

theorem ifStage_frame {s t : State} (h : ifStage s = .next t) :
    t = { s with log := t.log, nxt := { s.nxt with ifid := t.nxt.ifid } } := by
  rcases ifStage_cases h with ⟨_, rfl⟩ | ⟨_, _, _, rfl⟩
  · unfold holdOrSquash
    split <;> rfl
  · cases (fetched s).id <;> rfl

/-! ## What WB and ID do with the records they hold -/

/-- WB writes the destination of the record in MEM/WB, where its signals say so (50_pipeline.md R301). -/
theorem wbStage_regs {s t : State} (h : wbStage s = .next t) :
    t.regs = (if s.cur.memwb.ctl.regWrite then s.writeDest s.cur.memwb.ins.rd s.cur.memwb.value else s).regs := by
  obtain ⟨i, hi, ht⟩ := runIn_next h
  obtain ⟨w, hw, _, _, hrd, _⟩ := work_of_record hi
  rw [hw] at ht
  have ht := Host.Outcome.next.inj ((writeBack_next w _).symm.trans ht)
  rw [← ht, hrd]
  simp only [State.setActivity_cur, State.record_cur]
  split
  · exact State.writeDest_regs_congr (by simp) _ _
  · simp

/-- An instruction that is not stalled goes on into ID/EX with the operands ID reads, and redirects as its
record says (50_pipeline.md R314 to R317). -/
theorem idStage_accepts {s t : State} (h : idStage s = .next t)
    (hz : hazard s.input.fwd s.cur s.cur.ifid.ins = false) :
    t.nxt.idex = ⟨s.cur.ifid.ins, s.cur.ifid.pc, s.cur.ifid.id, control s.cur.ifid.ins,
      s.operandInId s.cur.ifid.ins.rs1, s.operandInId s.cur.ifid.ins.rs2⟩ ∧
    t.stalled = false ∧
    t.redirect = redirectOf s.cur.ifid.ins s.cur.ifid.pc t.nxt.idex.a t.nxt.idex.b := by
  simp only [idStage, hz, Bool.false_eq_true, if_false] at h
  obtain ⟨i, hi, ht⟩ := runIn_next h
  obtain ⟨w, hw, hrs1, hrs2, _, _, _, htarget, _⟩ := work_of_record hi
  rw [hw] at ht
  have ht := Host.Outcome.next.inj ((accept_next w _).symm.trans ht)
  have hop (r : Option Reg) :
      (((s.setStalled false).record s.cur.ifid.id .ID).setActivity .id).operandInId r = s.operandInId r :=
    State.operandInId_congr (by simp) (by simp) (by simp) r
  subst ht
  simp [hrs1, hrs2, htarget, hop]

/-- A stalled instruction is held: no redirect, and the front end does not move (50_pipeline.md R312). -/
theorem idStage_stalls {s t : State} (h : idStage s = .next t)
    (hz : hazard s.input.fwd s.cur s.cur.ifid.ins = true) : t.stalled = true ∧ t.redirect = none := by
  rcases idStage_cases h with ⟨_, rfl⟩ | ⟨hno, _⟩
  · exact ⟨stallInId_stalled s, stallInId_redirect s⟩
  · exact absurd hz (by simp [hno])

/-! ## What a step does -/

/-- A step's WB works on the state before it, and no later stage writes a register (10_state.md R32). -/
theorem step_wbStage {s t : State} (h : step s = .next t) :
    ∃ s1, wbStage s = .next s1 ∧ t.regs = s1.regs := by
  obtain ⟨s1, s2, s3, s4, s5, hwb, hmem, hex, hid, hif, rfl⟩ := oneCycle_cases (step_cases h).2
  refine ⟨s1, hwb, ?_⟩
  calc (commit s5).regs = s4.regs := by rw [commit_regs, ifStage_frame hif]
    _ = s3.regs := by rw [idStage_frame hid]
    _ = s2.regs := by rw [exStage_frame hex]
    _ = s1.regs := by rw [memStage_frame hmem]

/-- A step's ID sees the latches, inputs and pc of the state before it and the registers of the state after
it; its ID/EX and its decisions are the step's. -/
theorem step_idStage {s t : State} (h : step s = .next t) :
    ∃ s3 s4, idStage s3 = .next s4 ∧
      s3 = { s3 with input := s.input, cur := s.cur, pc := s.pc, regs := t.regs } ∧
      t.cur.idex = s4.nxt.idex ∧ t.pc = nextPc s4.stalled s4.redirect s.pc := by
  obtain ⟨s1, s2, s3, s4, s5, hwb, hmem, hex, hid, hif, rfl⟩ := oneCycle_cases (step_cases h).2
  have hs3 : s3 = { s3 with input := s.input, cur := s.cur, pc := s.pc } := by
    rw [exStage_frame hex, memStage_frame hmem, wbStage_frame hwb]
  have hpc : s4.pc = s.pc := by rw [idStage_frame hid, hs3]
  refine ⟨s3, s4, hid, ?_, ?_, ?_⟩
  · rw [commit_regs, ifStage_frame hif, idStage_frame hid]
    exact hs3
  · rw [commit_cur, ifStage_frame hif]
  · rw [commit_pc, ifStage_frame hif, ← hpc]

/-- The registers after a step: WB's write into those before it, and no other (10_state.md R32). -/
theorem step_regs {s t : State} (h : step s = .next t) :
    t.regs = (if s.cur.memwb.ctl.regWrite then s.writeDest s.cur.memwb.ins.rd s.cur.memwb.value else s).regs := by
  obtain ⟨s1, hwb, hregs⟩ := step_wbStage h
  rw [hregs, wbStage_regs hwb]

/-- A step that does not stall: ID/EX takes the record in IF/ID with its operands, read in the register file
as the step leaves it, and pc follows its redirect. -/
theorem step_accepts {s t : State} (h : step s = .next t)
    (hz : hazard s.input.fwd s.cur s.cur.ifid.ins = false) :
    t.cur.idex = ⟨s.cur.ifid.ins, s.cur.ifid.pc, s.cur.ifid.id, control s.cur.ifid.ins,
      { s with regs := t.regs }.operandInId s.cur.ifid.ins.rs1,
      { s with regs := t.regs }.operandInId s.cur.ifid.ins.rs2⟩ ∧
    t.pc = (redirectOf s.cur.ifid.ins s.cur.ifid.pc t.cur.idex.a t.cur.idex.b).getD (s.pc + 4) := by
  obtain ⟨s3, s4, hid, hs3, hidex, hpc⟩ := step_idStage h
  have hcur : s3.cur = s.cur := by rw [hs3]
  have hinput : s3.input = s.input := by rw [hs3]
  have hregs : s3.regs = t.regs := by rw [hs3]
  have hop (r : Option Reg) : s3.operandInId r = { s with regs := t.regs }.operandInId r :=
    State.operandInId_congr (s := { s with regs := t.regs }) hinput hcur hregs r
  obtain ⟨hlatch, hstalled, hredirect⟩ := idStage_accepts hid (by rwa [hcur, hinput])
  rw [hcur, hop, hop] at hlatch
  rw [hcur] at hredirect
  refine ⟨hidex.trans hlatch, ?_⟩
  rw [hpc, hstalled, hredirect, hidex]
  unfold nextPc
  cases redirectOf s.cur.ifid.ins s.cur.ifid.pc s4.nxt.idex.a s4.nxt.idex.b <;> rfl

theorem step_stalls_pc {s t : State} (h : step s = .next t)
    (hz : hazard s.input.fwd s.cur s.cur.ifid.ins = true) : t.pc = s.pc := by
  obtain ⟨s3, s4, hid, hs3, _, hpc⟩ := step_idStage h
  obtain ⟨hstalled, hredirect⟩ := idStage_stalls hid (by rw [hs3]; exact hz)
  rw [hpc, hstalled, hredirect]
  rfl

/-- A step counts one cycle (10_state.md R51). -/
theorem step_cycle {s t : State} (h : step s = .next t) : t.cycle = s.cycle + 1 := by
  obtain ⟨s1, s2, s3, s4, s5, hwb, hmem, hex, hid, hif, rfl⟩ := oneCycle_cases (step_cases h).2
  rw [commit_cycle, ifStage_frame hif, idStage_frame hid, exStage_frame hex, memStage_frame hmem,
    wbStage_frame hwb]

/-- A step that answers a next state leaves the mark clear (10_state.md R52). -/
theorem step_mark {s t : State} (h : step s = .next t) : t.mark = none := by
  obtain ⟨hmark, hcycle⟩ := step_cases h
  obtain ⟨s1, s2, s3, s4, s5, hwb, hmem, hex, hid, hif, rfl⟩ := oneCycle_cases hcycle
  rw [commit_mark, ifStage_frame hif, idStage_frame hid, exStage_frame hex, memStage_frame hmem,
    wbStage_frame hwb]
  exact hmark

end Sys2Proof.Machine
end

section
/-! O44 and O45: the mark and the cycle counter along a run (10_state.md R51, R52). A cycle either is a step,
which counts and leaves the mark clear, or sets the mark; a marked state stays as it is. -/

namespace Sys2Proof.Machine

/-! ## One call of runCycle -/

theorem runCycle_of_next {s t : State} (h : step s = .next t) : runCycle s = t := by
  simp only [runCycle, h]

theorem runCycle_of_fault {s : State} {r : Fault} (h : step s = .fault r) :
    runCycle s = { s with mark := some (.fault r) } := by
  simp only [runCycle, h]

theorem runCycle_of_refused {s : State} {r : Refusal} (h : step s = .refused r) :
    runCycle s = { s with mark := some (.refused r) } := by
  simp only [runCycle, h]

theorem step_of_mark {s : State} {m : Mark} (h : s.mark = some m) : step s = m.outcome := by
  simp only [step, h]

/-- No cycle is performed once the mark is set. -/
theorem runCycle_of_mark {s : State} (h : s.mark ≠ none) : runCycle s = s := by
  obtain ⟨m, hm⟩ := Option.ne_none_iff_exists'.1 h
  have hself : { s with mark := some m } = s := by rw [← hm]
  cases m with
  | fault r => exact (runCycle_of_fault (step_of_mark hm)).trans hself
  | refused r => exact (runCycle_of_refused (step_of_mark hm)).trans hself

/-- A cycle that leaves the mark clear is a step. -/
theorem step_of_runCycle_mark {s : State} (h : (runCycle s).mark = none) : step s = .next (runCycle s) := by
  cases hstep : step s with
  | next t => rw [runCycle_of_next hstep]
  | fault r => simp [runCycle_of_fault hstep] at h
  | refused r => simp [runCycle_of_refused hstep] at h

/-! ## Any number of them -/

theorem runCycles_of_mark {s : State} (h : s.mark ≠ none) (k : Nat) : runCycles k s = s := by
  induction k with
  | zero => rfl
  | succ k ih =>
    rw [runCycles, runCycle_of_mark h]
    exact ih

/-- A mark that is clear after a run was clear before it. -/
theorem mark_of_runCycles_mark {s : State} {k : Nat} (h : (runCycles k s).mark = none) : s.mark = none := by
  by_contra hmark
  rw [runCycles_of_mark hmark] at h
  exact hmark h

/-- A run of `k` cycles that ends unmarked counts `k`. -/
theorem runCycles_cycle {s : State} {k : Nat} (h : (runCycles k s).mark = none) :
    (runCycles k s).cycle = s.cycle + k := by
  induction k generalizing s with
  | zero => rfl
  | succ k ih =>
    have hstep := step_of_runCycle_mark (mark_of_runCycles_mark (s := runCycle s) h)
    calc (runCycles k (runCycle s)).cycle = (runCycle s).cycle + k := ih h
      _ = s.cycle + 1 + k := by rw [step_cycle hstep]
      _ = s.cycle + (k + 1) := by omega

/-- Settles O44: a cycle ends in a step or sets the mark, and a marked state is fixed by every cycle. -/
theorem markIsSticky : Obligations.MarkIsSticky := by
  unfold Obligations.MarkIsSticky
  refine ⟨fun _ _ _ => rfl, fun s r h => ?_, fun s r h => ?_, fun s t => step_mark,
    fun s k h => runCycles_of_mark h k, fun s k => mark_of_runCycles_mark⟩
  · rw [runCycle_of_fault h]
  · rw [runCycle_of_refused h]

/-- Settles O45: every cycle of a run that ends unmarked is a step, and a step counts one. -/
theorem runIsTotalCyclesLong : Obligations.RunIsTotalCyclesLong := by
  unfold Obligations.RunIsTotalCyclesLong
  refine ⟨fun s t => step_cycle, fun input regs mem k h => ?_, fun s => runCycles_cycle⟩
  calc (runCycles k (State.construct input regs mem)).cycle = 0 + k := runCycles_cycle h
    _ = k := Nat.zero_add k

end Sys2Proof.Machine
end

section
/-! O28, O35 and O40: the register file and pc (10_state.md R31, R32, R36), from the step rules above. -/

namespace Sys2Proof.Machine

/-! ## x0 (R31) -/

@[simp] theorem forward_zero (c : Latches) (v : Word) : forward c 0#5 v = 0 := if_pos rfl

@[simp] theorem State.operandInId_zero (s : State) : s.operandInId (some 0#5) = 0 := by
  simp [State.operandInId, State.bypass]

theorem State.writeDest_zero (s : State) (v : Word) : s.writeDest (some 0) v = s := State.writeReg_zero s v

/-- No part of an instruction's work writes a register where the destination is x0. -/
theorem perform_regs_of_rd_zero {w : Work} {s t : State} (hrd : w.rd = some 0) (h : perform w s = .next t) :
    t.regs = s.regs := by
  unfold perform at h
  split at h
  · obtain ⟨r, v, u, _, haccess, rfl⟩ := performWhole_cases h
    rw [hrd, State.writeDest_zero, State.setPc_regs, State.access_frame haccess]
  · rw [writeBack_next, hrd, State.writeDest_zero, ite_self] at h
    rw [Host.Outcome.next.inj h]
  · obtain ⟨v, u, haccess, rfl⟩ := memoryAccess_cases h
    rw [State.setMemwb_regs, State.access_frame haccess]
  · obtain ⟨r, _, rfl⟩ := execute_cases h
    exact State.setExmem_regs s _
  · rw [accept_next] at h
    rw [← Host.Outcome.next.inj h, State.setRedirect_regs, State.setIdex_regs]

/-- Settles O28: the readers test for x0 first, and every write goes through `writeReg`, which drops it. -/
theorem x0IsHardwiredToZero : Obligations.X0IsHardwiredToZero := by
  unfold Obligations.X0IsHardwiredToZero
  refine ⟨fun s c v => ⟨s.readReg_zero, s.operandInId_zero, forward_zero c v, s.writeReg_zero v⟩,
    fun i s t hdest h => ?_, fun s t hrd h => ?_⟩
  · obtain ⟨w, hw, hwrd, _, _⟩ := exec_eq_perform i
    exact perform_regs_of_rd_zero (hwrd.trans hdest) ((hw s).symm.trans h)
  · rw [step_regs h, hrd, State.writeDest_zero, ite_self]

/-! ## Write before read (R32) -/

/-- A register after a step holds MEM/WB's value where MEM/WB writes it, and is unchanged otherwise. -/
theorem step_readReg {s t : State} (h : step s = .next t) (r : Reg) :
    t.readReg r =
      if s.cur.memwb.ctl.regWrite = true ∧ s.cur.memwb.ins.rd = some r ∧ r ≠ 0
      then s.cur.memwb.value else s.readReg r := by
  rw [State.readReg_congr (step_regs h)]
  by_cases hw : s.cur.memwb.ctl.regWrite = true
  · simp [hw, State.readReg_writeDest]
  · simp [hw]

/-- Settles O35: the registers of a step are WB's, and ID reads them in the same step. -/
theorem writeBeforeRead : Obligations.WriteBeforeRead := by
  unfold Obligations.WriteBeforeRead
  refine fun s t h => ⟨step_readReg h, fun hfwd hz => ?_⟩
  obtain ⟨hidex, _⟩ := step_accepts h hz
  have hread (r : Reg) : { s with regs := t.regs }.operandInId (some r) = t.readReg r :=
    State.operandInId_of_not_fwd (s := { s with regs := t.regs }) hfwd r
  exact ⟨fun r hr => by rw [hidex, hr, hread], fun r hr => by rw [hidex, hr, hread]⟩

/-! ## pc (R36) -/

/-- Settles O40, by whether the front end stalls. -/
theorem pcAfterACycle : Obligations.PcAfterACycle := by
  unfold Obligations.PcAfterACycle
  intro s t h
  split
  · next hz => exact step_stalls_pc h hz
  · next hz => exact (step_accepts h (by simpa using hz)).2

end Sys2Proof.Machine
end

section
/-! O13: what loads see of a stored word (20_memory.md R71, R72, R77). A store in range leaves its bytes at
consecutive addresses; a narrow read at an offset then is the field of the word there. -/

namespace Sys2Proof.Machine

/-! ## In-range accesses -/

theorem State.load_in_range {s : State} {k : LoadKind} {ea : Word}
    (h : ea.toNat + k.size ≤ Config.memSize) : s.load k ea = some (s.mem.loadValue k ea.toNat) := by
  simp [State.load, inRange, h]

theorem State.store_in_range {s : State} {k : StoreKind} {ea d : Word}
    (h : ea.toNat + k.size ≤ Config.memSize) :
    s.store k ea d = some ((s.setMem (s.mem.writeBytes ea.toNat (s.bytesToStore k d))).afterDraw k) := by
  simp [State.store, inRange, h]

/-- An effective address with an offset does not wrap while it stays inside data memory. -/
theorem toNat_add_of_lt_memSize {a o : Word} (h : a.toNat + o.toNat < Config.memSize) :
    (a + o).toNat = a.toNat + o.toNat := by
  have hsize : Config.memSize = 1024 := rfl
  rw [BitVec.toNat_add, Nat.mod_eq_of_lt (by omega)]

theorem LoadKind.size_pos (k : LoadKind) : 0 < k.size := by
  cases k <;> decide

theorem State.load_offset {s : State} {k : LoadKind} {a o : Word}
    (h : a.toNat + o.toNat + k.size ≤ Config.memSize) :
    s.load k (a + o) = some (s.mem.loadValue k (a.toNat + o.toNat)) := by
  have hsum : (a + o).toNat = a.toNat + o.toNat :=
    toNat_add_of_lt_memSize (by have := k.size_pos; omega)
  rw [State.load_in_range (by rw [hsum]; exact h), hsum]

/-! ## A word in memory -/

/-- The four bytes from `a` are those of `v`, the least significant at the lowest address (R71). -/
def Memory.HoldsWord (m : Memory) (a : Nat) (v : Word) : Prop :=
  ∀ j, j < 4 → m.read (a + j) = byteOf v j

theorem byteOf_append_byteOf (v : Word) (j : Nat) :
    byteOf v (j + 1) ++ byteOf v j = v.extractLsb' (8 * j) 16 :=
  BitVec.extractLsb'_append_extractLsb'_eq_extractLsb' (by omega)

theorem byteOf_append_all (v : Word) : byteOf v 3 ++ byteOf v 2 ++ byteOf v 1 ++ byteOf v 0 = v := by
  have hjoin : byteOf v 3 ++ byteOf v 2 ++ byteOf v 1 ++ byteOf v 0 = v.extractLsb' 0 (8 + 8 + 8 + 8) := by
    simp only [byteOf]
    rw [BitVec.extractLsb'_append_extractLsb'_eq_extractLsb' (by omega),
      BitVec.extractLsb'_append_extractLsb'_eq_extractLsb' (by omega),
      BitVec.extractLsb'_append_extractLsb'_eq_extractLsb' (by omega)]
  exact hjoin.trans BitVec.extractLsb'_eq_self

theorem Memory.HoldsWord.read16 {m : Memory} {a : Nat} {v : Word} (h : m.HoldsWord a v) {j : Nat}
    (hj : j < 3) : m.read16 (a + j) = v.extractLsb' (8 * j) 16 := by
  rw [Memory.read16, Nat.add_assoc, h (j + 1) (by omega), h j (by omega), byteOf_append_byteOf]

theorem Memory.HoldsWord.read32 {m : Memory} {a : Nat} {v : Word} (h : m.HoldsWord a v) :
    m.read32 a = v := by
  have h0 : m.read a = byteOf v 0 := h 0 (by decide)
  rw [Memory.read32, h 3 (by decide), h 2 (by decide), h 1 (by decide), h0, byteOf_append_all]

/-- A word store in range leaves its word in memory. -/
theorem State.store_word_holdsWord {s t : State} {a v : Word} (hw : s.mem.wf = true)
    (ha : a.toNat + 4 ≤ Config.memSize) (h : s.store .word a v = some t) : t.mem.HoldsWord a.toNat v := by
  rw [State.store_in_range ha] at h
  obtain rfl := Option.some.inj h
  intro j hj
  rw [State.afterDraw_mem, State.setMem_mem, Memory.read_writeBytes_inside hw _ _ _ (by exact hj)]
  simp only [State.bytesToStore, storeBytes]
  interval_cases j <;> rfl

/-! ## Loads of a held word -/

section HeldWord

variable {t : State} {a v : Word} (hr : a.toNat + 4 ≤ Config.memSize) (hv : t.mem.HoldsWord a.toNat v)

include hr hv

theorem State.load_word_of_holdsWord : t.load .word a = some v := by
  rw [State.load_in_range hr, Memory.loadValue, hv.read32]

theorem State.load_byte_of_holdsWord (o : Word) (ho : o.toNat < 4) :
    t.load .byteU (a + o) = some ((byteOf v o.toNat).setWidth 32) ∧
    t.load .byte (a + o) = some ((byteOf v o.toNat).signExtend 32) := by
  have hin : a.toNat + o.toNat + 1 ≤ Config.memSize := by omega
  rw [State.load_offset hin, State.load_offset hin, Memory.loadValue, Memory.loadValue, hv _ ho]
  exact ⟨rfl, rfl⟩

theorem State.load_half_of_holdsWord (o : Word) (ho : o.toNat < 3) :
    t.load .halfU (a + o) = some ((v.extractLsb' (8 * o.toNat) 16).setWidth 32) ∧
    t.load .half (a + o) = some ((v.extractLsb' (8 * o.toNat) 16).signExtend 32) := by
  have hin : a.toNat + o.toNat + 2 ≤ Config.memSize := by omega
  rw [State.load_offset hin, State.load_offset hin, Memory.loadValue, Memory.loadValue, hv.read16 ho]
  exact ⟨rfl, rfl⟩

end HeldWord

/-- Settles O13: the store leaves the word in memory, and each load reads its field at the load's offset. -/
theorem narrowLoadsSeeWordStores : Obligations.NarrowLoadsSeeWordStores := by
  unfold Obligations.NarrowLoadsSeeWordStores
  intro s t a v hw ha hstore
  have hv := State.store_word_holdsWord hw ha hstore
  obtain ⟨hbu0, hb0⟩ := State.load_byte_of_holdsWord ha hv 0#32 (by decide)
  obtain ⟨hbu1, hb1⟩ := State.load_byte_of_holdsWord ha hv 1 (by decide)
  obtain ⟨hbu2, hb2⟩ := State.load_byte_of_holdsWord ha hv 2 (by decide)
  obtain ⟨hbu3, hb3⟩ := State.load_byte_of_holdsWord ha hv 3 (by decide)
  obtain ⟨hhu0, hh0⟩ := State.load_half_of_holdsWord ha hv 0#32 (by decide)
  obtain ⟨hhu1, hh1⟩ := State.load_half_of_holdsWord ha hv 1 (by decide)
  obtain ⟨hhu2, hh2⟩ := State.load_half_of_holdsWord ha hv 2 (by decide)
  rw [BitVec.add_zero] at hbu0 hb0 hhu0 hh0
  exact ⟨State.load_word_of_holdsWord ha hv, hbu0, hbu1, hbu2, hbu3, hhu0, hhu1, hhu2,
    hb0, hb1, hb2, hb3, hh0, hh1, hh2⟩

end Sys2Proof.Machine
end

section
/-! The fields of a word under a mask, the encoder over the decoder's fields, and the decoder by class: what
the statements about encodings (30_encoding.md) share. -/

namespace Sys2Proof

/-! ## Words as their fields (30_encoding.md R101 to R108) -/

/-- A word is the row of its six fields. -/
theorem append_fields (w : Word) :
    funct7Of w ++ rs2Of w ++ rs1Of w ++ funct3Of w ++ rdOf w ++ opcodeOf w = w := by
  apply BitVec.eq_of_getLsbD_eq
  intro k hk
  simp only [funct7Of, rs2Of, rs1Of, funct3Of, rdOf, opcodeOf, BitVec.getLsbD_append, BitVec.getLsbD_extractLsb']
  grind

theorem append_fields_of_opcode {w : Word} {op : BitVec 7} (h : opcodeOf w = op) :
    funct7Of w ++ rs2Of w ++ rs1Of w ++ funct3Of w ++ rdOf w ++ op = w :=
  h ▸ append_fields w

/-- Masking a word masks each of its fields. -/
theorem and_eq_append_fields (w m : Word) :
    w &&& m = (funct7Of w &&& funct7Of m) ++ (rs2Of w &&& rs2Of m) ++ (rs1Of w &&& rs1Of m) ++
      (funct3Of w &&& funct3Of m) ++ (rdOf w &&& rdOf m) ++ (opcodeOf w &&& opcodeOf m) := by
  simpa only [funct7Of, rs2Of, rs1Of, funct3Of, rdOf, opcodeOf, BitVec.extractLsb'_and]
    using (append_fields (w &&& m)).symm

/-- Words that agree under a mask agree on every field the mask keeps whole. -/
theorem extractLsb'_eq_of_and_eq {v w m : Word} (h : v &&& m = w &&& m) {start len : Nat}
    (hm : m.extractLsb' start len = BitVec.allOnes len) :
    v.extractLsb' start len = w.extractLsb' start len := by
  have hfield := congrArg (BitVec.extractLsb' start len) h
  simpa only [BitVec.extractLsb'_and, hm, BitVec.and_allOnes] using hfield

theorem immI_field (w : Word) : (immI w).extractLsb' 0 12 = funct7Of w ++ rs2Of w := by
  apply BitVec.eq_of_getLsbD_eq
  intro k hk
  simp only [immI, funct7Of, rs2Of, BitVec.getLsbD_append, BitVec.getLsbD_extractLsb', BitVec.getLsbD_signExtend]
  grind

/-- The shift amount is the rs2 field (R109). -/
theorem immI_shamt (w : Word) : (immI w).extractLsb' 0 5 = rs2Of w := by
  apply BitVec.eq_of_getLsbD_eq
  intro k hk
  simp only [immI, rs2Of, BitVec.getLsbD_extractLsb', BitVec.getLsbD_signExtend]
  grind

/-- Bit 5 of funct7 is raw[30], which tells SRAI from SRLI (R123). -/
theorem funct7Of_and_bit30 (w : Word) :
    funct7Of w &&& 0x20#7 = if w.extractLsb' 30 1 = 1#1 then 0x20#7 else 0#7 := by
  have hbit : (funct7Of w).extractLsb' 5 1 = w.extractLsb' 30 1 := by
    apply BitVec.eq_of_getLsbD_eq
    intro k hk
    simp only [funct7Of, BitVec.getLsbD_extractLsb']
    grind
  have hall : ∀ f : BitVec 7, f &&& 0x20#7 = if f.extractLsb' 5 1 = 1#1 then 0x20#7 else 0#7 := by decide
  rw [hall, hbit]

/-! ## The encoder puts the decoder's fields back (R102, R103) -/

theorem encodeR_fields {w : Word} (h : opcodeOf w = 0x33) :
    encodeR (funct7Of w) (funct3Of w) (rdOf w) (rs1Of w) (rs2Of w) = w := append_fields_of_opcode h

theorem encodeI_fields {w : Word} {op : BitVec 7} (h : opcodeOf w = op) :
    encodeI op (funct3Of w) (rdOf w) (rs1Of w) ((immI w).extractLsb' 0 12) = w := by
  rw [immI_field]
  exact append_fields_of_opcode h

theorem encodeS_fields {w : Word} (h : opcodeOf w = 0x23) :
    encodeS (funct3Of w) (rs1Of w) (rs2Of w) (immS w) = w := by
  refine Eq.trans ?_ (append_fields_of_opcode h)
  apply BitVec.eq_of_getLsbD_eq
  intro k hk
  simp only [encodeS, immS, funct7Of, rdOf, BitVec.getLsbD_append, BitVec.getLsbD_extractLsb',
    BitVec.getLsbD_signExtend]
  grind

theorem encodeB_fields {w : Word} (h : opcodeOf w = 0x63) :
    encodeB (funct3Of w) (rs1Of w) (rs2Of w) (immB w) = w := by
  refine Eq.trans ?_ (append_fields_of_opcode h)
  apply BitVec.eq_of_getLsbD_eq
  intro k hk
  simp only [encodeB, immB, funct7Of, rdOf, BitVec.getLsbD_append, BitVec.getLsbD_extractLsb',
    BitVec.getLsbD_signExtend]
  grind

theorem encodeU_fields {w : Word} {op : BitVec 7} (h : opcodeOf w = op) :
    encodeU op (rdOf w) (immU w) = w := by
  refine Eq.trans ?_ (append_fields_of_opcode h)
  apply BitVec.eq_of_getLsbD_eq
  intro k hk
  simp only [encodeU, immU, funct7Of, rs2Of, rs1Of, funct3Of, BitVec.getLsbD_append,
    BitVec.getLsbD_extractLsb', BitVec.getLsbD_zero]
  grind

theorem encodeJ_fields {w : Word} (h : opcodeOf w = 0x6F) : encodeJ (rdOf w) (immJ w) = w := by
  refine Eq.trans ?_ (append_fields_of_opcode h)
  apply BitVec.eq_of_getLsbD_eq
  intro k hk
  simp only [encodeJ, immJ, funct7Of, rs2Of, rs1Of, funct3Of, BitVec.getLsbD_append,
    BitVec.getLsbD_extractLsb', BitVec.getLsbD_signExtend]
  grind

/-! ## The classes that ignore no bit, and the shifts (R109, R138) -/

theorem encode_of_rTypeInstr {rd rs1 rs2 : Reg} {f3 : BitVec 3} {f7 : BitVec 7} {i : Instr}
    (h : rTypeInstr rd rs1 rs2 f3 f7 = .ok i) :
    i.ignoredBits = 0 ∧ encode i = encodeR f7 f3 rd rs1 rs2 := by
  unfold rTypeInstr at h
  split_ifs at h <;> cases h <;> simp_all [Instr.ignoredBits, encode]

theorem encode_of_loadInstr {rd rs1 : Reg} {f3 : BitVec 3} {imm : Word} {i : Instr}
    (h : loadInstr rd rs1 f3 imm = .ok i) :
    i.ignoredBits = 0 ∧ encode i = encodeI 0x03 f3 rd rs1 (imm.extractLsb' 0 12) := by
  unfold loadInstr at h
  split_ifs at h <;> cases h <;> simp_all [Instr.ignoredBits, encode]

theorem encode_of_storeInstr {rs1 rs2 : Reg} {f3 : BitVec 3} {imm : Word} {i : Instr}
    (h : storeInstr rs1 rs2 f3 imm = .ok i) : i.ignoredBits = 0 ∧ encode i = encodeS f3 rs1 rs2 imm := by
  unfold storeInstr at h
  split_ifs at h <;> cases h <;> simp_all [Instr.ignoredBits, encode]

theorem encode_of_branchInstr {rs1 rs2 : Reg} {f3 : BitVec 3} {imm : Word} {i : Instr}
    (h : branchInstr rs1 rs2 f3 imm = .ok i) : i.ignoredBits = 0 ∧ encode i = encodeB f3 rs1 rs2 imm := by
  unfold branchInstr at h
  split_ifs at h <;> cases h <;> simp_all [Instr.ignoredBits, encode]

theorem encode_immediateInstr (raw : Word) (rd rs1 : Reg) {f3 : BitVec 3} (imm : Word) (h1 : f3 ≠ 1)
    (h5 : f3 ≠ 5) : (immediateInstr raw rd rs1 f3 imm).ignoredBits = 0 ∧
      encode (immediateInstr raw rd rs1 f3 imm) = encodeI 0x13 f3 rd rs1 (imm.extractLsb' 0 12) := by
  have hf3 : f3 = 0 ∨ f3 = 2 ∨ f3 = 3 ∨ f3 = 4 ∨ f3 = 6 ∨ f3 = 7 := by
    revert f3; decide
  rcases hf3 with rfl | rfl | rfl | rfl | rfl | rfl <;> exact ⟨rfl, rfl⟩

theorem decode_slli {w : Word} (h : opcodeOf w = 0x13) (h3 : funct3Of w = 1) :
    decode w = .ok (.slli (rdOf w) (rs1Of w) (rs2Of w)) := by
  simp [decode_immediate h, immediateInstr, h3, immI_shamt]

theorem decode_srai {w : Word} (h : opcodeOf w = 0x13) (h3 : funct3Of w = 5) (h30 : w.extractLsb' 30 1 = 1#1) :
    decode w = .ok (.srai (rdOf w) (rs1Of w) (rs2Of w)) := by
  simp [decode_immediate h, immediateInstr, h3, h30, immI_shamt]

theorem decode_srli {w : Word} (h : opcodeOf w = 0x13) (h3 : funct3Of w = 5) (h30 : w.extractLsb' 30 1 ≠ 1#1) :
    decode w = .ok (.srli (rdOf w) (rs1Of w) (rs2Of w)) := by
  simp [decode_immediate h, immediateInstr, h3, h30, immI_shamt]

/-- A word of an opcode outside the nine is inert (R111, R113). -/
theorem decode_unrecognised {w : Word}
    (h : opcodeOf w ∉ [0x33#7, 0x13, 0x03, 0x67, 0x23, 0x63, 0x37, 0x17, 0x6F]) :
    decode w = if w = 0 then .ok .nop else .ok .unknown := by
  simp only [List.mem_cons, List.not_mem_nil, or_false, not_or, BitVec.ofNat_eq_ofNat] at h
  obtain ⟨h33, h13, h03, h67, h23, h63, h37, h17, h6F⟩ := h
  split
  · next hw => rw [hw, decode_zero]
  · next hw =>
    simp [decode, decodeRecord_of_ne_zero hw, payloadOf, Record.instr, h33, h13, h03, h67, h23, h63, h37, h17, h6F]

/-- Every word is of one of the nine opcodes of R111, or of none of them. -/
theorem opcodeOf_cases (w : Word) :
    opcodeOf w = 0x33 ∨ opcodeOf w = 0x13 ∨ opcodeOf w = 0x03 ∨ opcodeOf w = 0x67 ∨ opcodeOf w = 0x23 ∨
    opcodeOf w = 0x63 ∨ opcodeOf w = 0x37 ∨ opcodeOf w = 0x17 ∨ opcodeOf w = 0x6F ∨
    opcodeOf w ∉ [0x33#7, 0x13, 0x03, 0x67, 0x23, 0x63, 0x37, 0x17, 0x6F] := by
  simp only [List.mem_cons, List.not_mem_nil, or_false]
  tauto

end Sys2Proof
end

section
/-! O4: exactly the ignored bits are ignored (30_encoding.md R138). The encoder gives back every bit that is
not ignored, and those bits settle what the decoder answers. -/

namespace Sys2Proof

/-- What a word that decodes to a recognised instruction is: the encoding of that instruction, bit for bit,
or one of the four that ignore some of their bits (R138). -/
theorem decode_ok_cases {w : Word} {i : Instr} (h : decode w = .ok i) (hi : i ≠ .unknown) :
    (i.ignoredBits = 0 ∧ encode i = w) ∨
    (opcodeOf w = 0x67 ∧ i = .jalr (rdOf w) (rs1Of w) (immI w)) ∨
    (opcodeOf w = 0x13 ∧ funct3Of w = 1 ∧ i = .slli (rdOf w) (rs1Of w) (rs2Of w)) ∨
    (opcodeOf w = 0x13 ∧ funct3Of w = 5 ∧ w.extractLsb' 30 1 = 1#1 ∧ i = .srai (rdOf w) (rs1Of w) (rs2Of w)) ∨
    (opcodeOf w = 0x13 ∧ funct3Of w = 5 ∧ w.extractLsb' 30 1 ≠ 1#1 ∧ i = .srli (rdOf w) (rs1Of w) (rs2Of w)) := by
  rcases opcodeOf_cases w with hop | hop | hop | hop | hop | hop | hop | hop | hop | hop
  · obtain ⟨hbits, henc⟩ := encode_of_rTypeInstr ((decode_r hop).symm.trans h)
    exact .inl ⟨hbits, henc.trans (encodeR_fields hop)⟩
  · by_cases h1 : funct3Of w = 1
    · exact .inr (.inr (.inl ⟨hop, h1, by simpa using h.symm.trans (decode_slli hop h1)⟩))
    by_cases h5 : funct3Of w = 5
    · by_cases h30 : w.extractLsb' 30 1 = 1#1
      · exact .inr (.inr (.inr (.inl ⟨hop, h5, h30, by simpa using h.symm.trans (decode_srai hop h5 h30)⟩)))
      · exact .inr (.inr (.inr (.inr ⟨hop, h5, h30, by simpa using h.symm.trans (decode_srli hop h5 h30)⟩)))
    obtain rfl : immediateInstr .. = i := Except.ok.inj ((decode_immediate hop).symm.trans h)
    obtain ⟨hbits, henc⟩ := encode_immediateInstr w (rdOf w) (rs1Of w) (immI w) h1 h5
    exact .inl ⟨hbits, henc.trans (encodeI_fields hop)⟩
  · obtain ⟨hbits, henc⟩ := encode_of_loadInstr ((decode_load hop).symm.trans h)
    exact .inl ⟨hbits, henc.trans (encodeI_fields hop)⟩
  · exact .inr (.inl ⟨hop, by simpa using h.symm.trans (decode_jalr hop)⟩)
  · obtain ⟨hbits, henc⟩ := encode_of_storeInstr ((decode_store hop).symm.trans h)
    exact .inl ⟨hbits, henc.trans (encodeS_fields hop)⟩
  · obtain ⟨hbits, henc⟩ := encode_of_branchInstr ((decode_branch hop).symm.trans h)
    exact .inl ⟨hbits, henc.trans (encodeB_fields hop)⟩
  · obtain rfl : Instr.lui _ _ = i := Except.ok.inj ((decode_lui hop).symm.trans h)
    exact .inl ⟨rfl, encodeU_fields hop⟩
  · obtain rfl : Instr.auipc _ _ = i := Except.ok.inj ((decode_auipc hop).symm.trans h)
    exact .inl ⟨rfl, encodeU_fields hop⟩
  · obtain rfl : Instr.jal _ _ = i := Except.ok.inj ((decode_jal hop).symm.trans h)
    exact .inl ⟨rfl, encodeJ_fields hop⟩
  · rw [decode_unrecognised hop] at h
    split_ifs at h with hw
    · obtain rfl : Instr.nop = i := Except.ok.inj h
      exact .inl ⟨rfl, hw.symm⟩
    · exact absurd (Except.ok.inj h).symm hi

/-! ## Masks over the fields -/

/-- The mask keeps the opcode and the three register fields whole. -/
def keepsOperands (m : Word) : Bool :=
  opcodeOf m == BitVec.allOnes 7 && rdOf m == BitVec.allOnes 5 && rs1Of m == BitVec.allOnes 5 &&
    rs2Of m == BitVec.allOnes 5

theorem keepsOperands_iff (m : Word) : keepsOperands m = true ↔
    opcodeOf m = BitVec.allOnes 7 ∧ rdOf m = BitVec.allOnes 5 ∧ rs1Of m = BitVec.allOnes 5 ∧
      rs2Of m = BitVec.allOnes 5 := by
  simp only [keepsOperands, Bool.and_eq_true, beq_iff_eq, and_assoc]

theorem ignoredBits_cases {i : Instr} (hi : i ≠ .unknown) :
    i.ignoredBits = 0 ∨ i.ignoredBits = 0x00007000 ∨ i.ignoredBits = 0xFE000000 ∨ i.ignoredBits = 0xBE000000 := by
  cases i <;> simp [Instr.ignoredBits] at hi ⊢

/-- No recognised instruction ignores a bit of its opcode or of a register field (R138). -/
theorem keepsOperands_of_ne_unknown {i : Instr} (hi : i ≠ .unknown) : keepsOperands (~~~i.ignoredBits) = true := by
  rcases ignoredBits_cases hi with h | h | h | h <;> rw [h] <;> decide

/-- A masked word as an I-type word, for a mask that keeps the operands. -/
theorem and_eq_encodeI {m : Word} {m3 : BitVec 3} {m7 : BitVec 7} (hm : keepsOperands m = true)
    (h3 : funct3Of m = m3) (h7 : funct7Of m = m7) (w : Word) :
    w &&& m = encodeI (opcodeOf w) (funct3Of w &&& m3) (rdOf w) (rs1Of w) ((funct7Of w &&& m7) ++ rs2Of w) := by
  obtain ⟨hop, hrd, hrs1, hrs2⟩ := (keepsOperands_iff m).1 hm
  rw [and_eq_append_fields, hop, hrd, hrs1, hrs2, h3, h7]
  simp only [BitVec.and_allOnes, encodeI]

theorem operands_eq_of_and_eq {v w m : Word} (hm : keepsOperands m = true) (h : v &&& m = w &&& m) :
    opcodeOf v = opcodeOf w ∧ rdOf v = rdOf w ∧ rs1Of v = rs1Of w ∧ rs2Of v = rs2Of w := by
  obtain ⟨hop, hrd, hrs1, hrs2⟩ := (keepsOperands_iff m).1 hm
  exact ⟨extractLsb'_eq_of_and_eq h hop, extractLsb'_eq_of_and_eq h hrd, extractLsb'_eq_of_and_eq h hrs1,
    extractLsb'_eq_of_and_eq h hrs2⟩

/-! ## The bits an instruction does not ignore -/

/-- The encoder, which writes 0 for the ignored bits (log 17), gives back all the others. -/
theorem and_not_ignoredBits_eq_encode {w : Word} {i : Instr} (h : decode w = .ok i) (hi : i ≠ .unknown) :
    w &&& ~~~i.ignoredBits = encode i := by
  rcases decode_ok_cases h hi with
    ⟨hbits, henc⟩ | ⟨hop, rfl⟩ | ⟨hop, h3, rfl⟩ | ⟨hop, h3, h30, rfl⟩ | ⟨hop, h3, h30, rfl⟩
  · rw [hbits, henc]
    exact BitVec.and_allOnes
  · rw [Instr.ignoredBits, and_eq_encodeI (m3 := 0#3) (m7 := BitVec.allOnes 7) (by decide) (by decide) (by decide),
      hop, BitVec.and_zero, BitVec.and_allOnes, encode, immI_field]
    rfl
  · rw [Instr.ignoredBits, and_eq_encodeI (m3 := BitVec.allOnes 3) (m7 := 0#7) (by decide) (by decide) (by decide),
      hop, h3, BitVec.and_zero, BitVec.and_allOnes, encode]
  · rw [Instr.ignoredBits, and_eq_encodeI (m3 := BitVec.allOnes 3) (m7 := 0x20#7) (by decide) (by decide) (by decide),
      hop, h3, BitVec.and_allOnes, funct7Of_and_bit30, if_pos h30, encode]
  · rw [Instr.ignoredBits, and_eq_encodeI (m3 := BitVec.allOnes 3) (m7 := 0x20#7) (by decide) (by decide) (by decide),
      hop, h3, BitVec.and_allOnes, funct7Of_and_bit30, if_neg h30, encode]

/-- What a word decodes to is settled by the bits that its instruction does not ignore. -/
theorem decode_eq_of_and_eq {w w' : Word} {i : Instr} (h : decode w = .ok i) (hi : i ≠ .unknown)
    (hmask : w' &&& ~~~i.ignoredBits = w &&& ~~~i.ignoredBits) : decode w' = .ok i := by
  obtain ⟨hop', hrd, hrs1, hrs2⟩ := operands_eq_of_and_eq (keepsOperands_of_ne_unknown hi) hmask
  rcases decode_ok_cases h hi with
    ⟨hbits, _⟩ | ⟨hop, rfl⟩ | ⟨hop, h3, rfl⟩ | ⟨hop, h3, h30, rfl⟩ | ⟨hop, h3, h30, rfl⟩
  · have hw : w' = w := by
      rw [hbits] at hmask
      simpa using extractLsb'_eq_of_and_eq hmask (start := 0) (len := 32) (by decide)
    rwa [hw]
  all_goals simp only [Instr.ignoredBits] at hmask
  · have himm : immI w' = immI w := congrArg (BitVec.signExtend 32) (extractLsb'_eq_of_and_eq hmask (by decide))
    rw [decode_jalr (hop'.trans hop), hrd, hrs1, himm]
  · have h3' : funct3Of w' = funct3Of w := extractLsb'_eq_of_and_eq hmask (by decide)
    rw [decode_slli (hop'.trans hop) (h3'.trans h3), hrd, hrs1, hrs2]
  · have h3' : funct3Of w' = funct3Of w := extractLsb'_eq_of_and_eq hmask (by decide)
    have h30' : w'.extractLsb' 30 1 = w.extractLsb' 30 1 := extractLsb'_eq_of_and_eq hmask (by decide)
    rw [decode_srai (hop'.trans hop) (h3'.trans h3) (h30'.trans h30), hrd, hrs1, hrs2]
  · have h3' : funct3Of w' = funct3Of w := extractLsb'_eq_of_and_eq hmask (by decide)
    have h30' : w'.extractLsb' 30 1 = w.extractLsb' 30 1 := extractLsb'_eq_of_and_eq hmask (by decide)
    rw [decode_srli (hop'.trans hop) (h3'.trans h3) (h30'.trans_ne h30), hrd, hrs1, hrs2]

/-- Settles O4: two words of one instruction are its encoding under the mask, and so agree there. -/
theorem onlyIgnoredBitsAreIgnored : Obligations.OnlyIgnoredBitsAreIgnored := by
  unfold Obligations.OnlyIgnoredBitsAreIgnored
  intro w w' i h hi
  refine ⟨fun h' => ?_, decode_eq_of_and_eq h hi⟩
  rw [and_not_ignoredBits_eq_encode h' hi, and_not_ignoredBits_eq_encode h hi]

end Sys2Proof
end

section
/-! O5: the unsupported words (30_encoding.md R137) and the cycle that meets one in ID. -/

namespace Sys2Proof

/-! ## The unsupported words -/

theorem rTypeInstr_error_iff (rd rs1 rs2 : Reg) (f3 : BitVec 3) (f7 : BitVec 7) :
    (∃ u, rTypeInstr rd rs1 rs2 f3 f7 = .error u) ↔ (f7, f3) ∉
      [(0x00#7, 0x0#3), (0x20, 0x0), (0x00, 0x1), (0x00, 0x5), (0x20, 0x5), (0x01, 0x0), (0x01, 0x4)] := by
  unfold rTypeInstr
  split_ifs <;> simp_all

theorem funct3_cases (f3 : BitVec 3) :
    f3 = 0 ∨ f3 = 1 ∨ f3 = 2 ∨ f3 = 3 ∨ f3 = 4 ∨ f3 = 5 ∨ f3 = 6 ∨ f3 = 7 := by
  revert f3; decide

theorem loadInstr_error_iff (rd rs1 : Reg) (f3 : BitVec 3) (imm : Word) :
    (∃ u, loadInstr rd rs1 f3 imm = .error u) ↔ f3 ∈ [3#3, 6, 7] := by
  rcases funct3_cases f3 with rfl | rfl | rfl | rfl | rfl | rfl | rfl | rfl <;> simp [loadInstr]

theorem storeInstr_error_iff (rs1 rs2 : Reg) (f3 : BitVec 3) (imm : Word) :
    (∃ u, storeInstr rs1 rs2 f3 imm = .error u) ↔ f3 ∈ [4#3, 5, 6, 7] := by
  rcases funct3_cases f3 with rfl | rfl | rfl | rfl | rfl | rfl | rfl | rfl <;> simp [storeInstr]

theorem branchInstr_error_iff (rs1 rs2 : Reg) (f3 : BitVec 3) (imm : Word) :
    (∃ u, branchInstr rs1 rs2 f3 imm = .error u) ↔ f3 ∈ [2#3, 3] := by
  rcases funct3_cases f3 with rfl | rfl | rfl | rfl | rfl | rfl | rfl | rfl <;> simp [branchInstr]

/-- The unsupported words are those of classes (a) to (d). -/
theorem decode_error_iff (w : Word) : (∃ u, decode w = .error u) ↔
    (opcodeOf w = 0x33 ∧ (funct7Of w, funct3Of w) ∉
      [(0x00#7, 0x0#3), (0x20, 0x0), (0x00, 0x1), (0x00, 0x5), (0x20, 0x5), (0x01, 0x0), (0x01, 0x4)]) ∨
    (opcodeOf w = 0x03 ∧ funct3Of w ∈ [3#3, 6, 7]) ∨
    (opcodeOf w = 0x23 ∧ funct3Of w ∈ [4#3, 5, 6, 7]) ∨
    (opcodeOf w = 0x63 ∧ funct3Of w ∈ [2#3, 3]) := by
  rcases opcodeOf_cases w with hop | hop | hop | hop | hop | hop | hop | hop | hop | hop
  · rw [decode_r hop, rTypeInstr_error_iff]; simp [hop]
  · rw [decode_immediate hop]; simp [hop]
  · rw [decode_load hop, loadInstr_error_iff]; simp [hop]
  · rw [decode_jalr hop]; simp [hop]
  · rw [decode_store hop, storeInstr_error_iff]; simp [hop]
  · rw [decode_branch hop, branchInstr_error_iff]; simp [hop]
  · rw [decode_lui hop]; simp [hop]
  · rw [decode_auipc hop]; simp [hop]
  · rw [decode_jal hop]; simp [hop]
  · rw [decode_unrecognised hop]
    simp only [List.mem_cons, List.not_mem_nil, or_false, not_or, BitVec.ofNat_eq_ofNat] at hop
    split <;> simp [hop]

namespace Machine

/-! ## When a stage answers a next state -/

theorem supported_iff (ins : Record) : supported ins = true ↔ ∃ i, ins.instr = .ok i := by
  unfold supported
  split <;> simp_all

theorem runIn_of_ok {a : Activity} {ins : Record} {i : Instr} (h : ins.instr = .ok i) (pc : Word) (s : State) :
    runIn a ins pc s = exec i (s.setActivity a) := by
  simp only [runIn, h]

theorem runIn_of_error {a : Activity} {ins : Record} {u : Unsupported} (h : ins.instr = .error u) (pc : Word)
    (s : State) : runIn a ins pc s = .refused (.unsupported ⟨s.cycle, pc, some ins.raw⟩) := by
  simp only [runIn, h]

/-- WB of a supported record answers a next state. -/
theorem wbStage_isNext {s : State} (h : supported s.cur.memwb.ins = true) : ∃ t, wbStage s = .next t := by
  obtain ⟨i, hi⟩ := (supported_iff _).1 h
  obtain ⟨w, hw, _⟩ := exec_eq_perform i
  rw [wbStage, runIn_of_ok hi, hw]
  exact ⟨_, writeBack_next w _⟩

theorem memoryAccess_isNext {s : State} (hoob : s.input.oobPolicy = .ignore) (w : Work) :
    ∃ t, memoryAccess w s = .next t := by
  obtain ⟨v, t, h⟩ : ∃ v t, accessInMem w s = some (v, t) := State.access_isSome hoob _ _ _ _
  simp only [memoryAccess, h]
  exact ⟨_, rfl⟩

/-- MEM of a supported record answers a next state where OOB_POLICY is ignore (20_memory.md R73, R74). -/
theorem memStage_isNext {s : State} (h : supported s.cur.exmem.ins = true) (hoob : s.input.oobPolicy = .ignore) :
    ∃ t, memStage s = .next t := by
  obtain ⟨i, hi⟩ := (supported_iff _).1 h
  obtain ⟨w, hw, _⟩ := exec_eq_perform i
  rw [memStage, runIn_of_ok hi, hw]
  exact memoryAccess_isNext (by simpa using hoob) w

theorem divide_eq_none {p : DivOverflow} {a b : Word} (h : divide p a b = none) :
    p = .fault ∧ a = 0x80000000 ∧ b = 0xFFFFFFFF := by
  unfold divide at h
  split_ifs at h with hb hopen
  cases p with
  | value r => cases h
  | fault => simpa [divOverflows] using hopen

/-- Only DIV's work can have no result, and only on the open pair (40_alu.md R164). -/
theorem work_result_none (i : Instr) : ∃ w : Work, (∀ s, exec i s = perform w s) ∧
    ∀ p ipc a b, w.result p ipc a b = none → ∃ rd rs1 rs2, i = .div rd rs1 rs2 ∧ w.rs1 = some rs1 ∧
      w.rs2 = some rs2 ∧ divide p a b = none := by
  cases i
  case div rd rs1 rs2 => exact ⟨_, fun _ => rfl, fun p ipc a b h => ⟨rd, rs1, rs2, rfl, rfl, rfl, h⟩⟩
  all_goals exact ⟨_, fun _ => rfl, fun p ipc a b h => nomatch h⟩

theorem execute_isNext {w : Work} {s : State} {r : Word} (h : resultInEx w s = some r) :
    ∃ t, execute w s = .next t := by
  simp only [execute, h]
  exact ⟨_, rfl⟩

theorem State.operandInEx_congr {s t : State} (hinput : t.input = s.input) (hcur : t.cur = s.cur)
    (r : Option Reg) (v : Word) : t.operandInEx r v = s.operandInEx r v := by
  cases r with
  | none => rfl
  | some r => simp [State.operandInEx, State.bypass, hinput, hcur]

theorem faultsInEx_congr {s t : State} (hinput : t.input = s.input) (hcur : t.cur = s.cur) :
    faultsInEx t ↔ faultsInEx s := by
  simp only [faultsInEx, State.operandInEx_congr hinput hcur, hinput, hcur]

/-- EX of a supported record answers a next state unless it holds the open DIV. -/
theorem exStage_isNext {s : State} (h : supported s.cur.idex.ins = true) (hf : ¬faultsInEx s) :
    ∃ t, exStage s = .next t := by
  obtain ⟨i, hi⟩ := (supported_iff _).1 h
  obtain ⟨w, hw, hdiv⟩ := work_result_none i
  rw [exStage, runIn_of_ok hi, hw]
  cases hr : resultInEx w ((s.record s.cur.idex.id .EX).setActivity .ex) with
  | some r => exact execute_isNext hr
  | none =>
    obtain ⟨rd, rs1, rs2, rfl, hrs1, hrs2, hnone⟩ := hdiv _ _ _ _ hr
    obtain ⟨hp, ha, hb⟩ := divide_eq_none hnone
    rw [hrs1, State.operandInEx_congr (s := s) (by simp) (by simp)] at ha
    rw [hrs2, State.operandInEx_congr (s := s) (by simp) (by simp)] at hb
    exact absurd ⟨by simpa using hp, rd, rs1, rs2, hi, by simpa using ha, by simpa using hb⟩ hf

/-- IF answers a next state where it fetches nothing (50_pipeline.md R340). -/
theorem ifStage_of_stalled {s : State} (h : s.stalled = true) : ifStage s = .next (holdOrSquash s) :=
  if_pos (.inl h)

/-- A fetch never refuses the word it reads. -/
theorem ifStage_ne_refused (s : State) (r : Refusal) : ifStage s ≠ .refused r := by
  unfold ifStage fetch
  split_ifs <;> exact nofun

/-! ## A cycle whose WB, MEM and EX answer next states -/

theorem Inv.supported_behind_id {s : State} (h : Inv s) :
    supported s.cur.idex.ins = true ∧ supported s.cur.exmem.ins = true ∧ supported s.cur.memwb.ins = true := by
  obtain ⟨_, _, _, _, hidex, hexmem, hmemwb, _, _⟩ := h
  simp only [issued, Bool.and_eq_true] at hidex hexmem hmemwb
  obtain ⟨⟨⟨_, hidex⟩, _⟩, _⟩ := hidex
  obtain ⟨⟨⟨_, hexmem⟩, _⟩, _⟩ := hexmem
  obtain ⟨⟨⟨_, hmemwb⟩, _⟩, _⟩ := hmemwb
  exact ⟨hidex, hexmem, hmemwb⟩

/-- Where neither MEM nor EX can fault, the cycle reaches ID, which sees the inputs, the current latches and
the cycle counter of the state before it. -/
theorem step_reaches_id {s : State} (hinv : Inv s) (hmark : s.mark = none) (hoob : s.input.oobPolicy = .ignore)
    (hex : ¬faultsInEx s) : ∃ s3, s3.input = s.input ∧ s3.cur = s.cur ∧ s3.cycle = s.cycle ∧
      step s = andThen (idStage s3) fun s4 => andThen (ifStage s4) fun s5 => .next (commit s5) := by
  obtain ⟨hidex, hexmem, hmemwb⟩ := hinv.supported_behind_id
  obtain ⟨s1, h1⟩ := wbStage_isNext hmemwb
  have hinput1 : s1.input = s.input := wbStage_input h1
  have hcur1 : s1.cur = s.cur := by rw [wbStage_frame h1]
  obtain ⟨s2, h2⟩ := memStage_isNext (s := s1) (by rwa [hcur1]) (by rwa [hinput1])
  have hinput2 : s2.input = s.input := (memStage_input h2).trans hinput1
  have hcur2 : s2.cur = s.cur := by rw [memStage_frame h2, hcur1]
  obtain ⟨s3, h3⟩ := exStage_isNext (s := s2) (by rwa [hcur2]) (by rwa [faultsInEx_congr hinput2 hcur2])
  refine ⟨s3, (exStage_input h3).trans hinput2, by rw [exStage_frame h3, hcur2], ?_, ?_⟩
  · rw [exStage_frame h3, memStage_frame h2, wbStage_frame h1]
  · simp only [step, hmark, oneCycle, h1, h2, h3, andThen_next]

theorem idStage_refuses {s : State} {u : Unsupported} (hz : hazard s.input.fwd s.cur s.cur.ifid.ins = false)
    (hu : s.cur.ifid.ins.instr = .error u) :
    idStage s = .refused (.unsupported ⟨s.cycle, s.cur.ifid.pc, some s.cur.ifid.ins.raw⟩) := by
  rw [idStage, hz, runIn_of_error hu]
  simp

theorem idStage_of_hazard {s : State} (hz : hazard s.input.fwd s.cur s.cur.ifid.ins = true) :
    idStage s = .next (stallInId s) := if_pos hz

/-- Settles O5: each class is where its decoder has no operation, and a cycle that reaches ID either stalls,
so that IF fetches nothing, or refuses. -/
theorem unsupportedWordsAreRefused : Obligations.UnsupportedWordsAreRefused := by
  unfold Obligations.UnsupportedWordsAreRefused
  refine ⟨decode_error_iff, fun s w u hinv hmark hoob hex hins hu => ?_, ifStage_ne_refused⟩
  obtain ⟨s3, hinput, hcur, hcycle, hstep⟩ := step_reaches_id hinv hmark hoob hex
  rw [← hinput, ← hcur, ← hcycle, hstep]
  rw [← hcur] at hins
  refine ⟨fun hz => ?_, fun hz => ?_⟩
  · have hinstr : s3.cur.ifid.ins.instr = .error u := by rw [hins]; exact hu
    rw [idStage_refuses hz hinstr, andThen_refused, hins, decodeRecord_raw]
  · rw [idStage_of_hazard hz, andThen_next, ifStage_of_stalled (stallInId_stalled s3), andThen_next]
    exact ⟨_, rfl⟩

end Machine

end Sys2Proof
end

section
/-! The ALU's results as integers: ADD, SUB and MUL modulo 2^32, and shifts as products and quotients by a
power of two (40_alu.md R161 to R163, R165 to R168, R170). -/

namespace Sys2Proof.Machine

/-! ## Addition, subtraction and multiplication of words -/

theorem add_eq_ofNat (a b : Word) : a + b = BitVec.ofNat 32 (a.toNat + b.toNat) := by
  rw [BitVec.ofNat_add, BitVec.ofNat_toNat, BitVec.ofNat_toNat, BitVec.setWidth_eq, BitVec.setWidth_eq]

theorem add_eq_ofInt (a b : Word) : a + b = BitVec.ofInt 32 (a.toInt + b.toInt) := by
  rw [BitVec.ofInt_add, BitVec.ofInt_toInt, BitVec.ofInt_toInt]

theorem mul_eq_ofNat (a b : Word) : a * b = BitVec.ofNat 32 (a.toNat * b.toNat) := by
  rw [BitVec.ofNat_mul, BitVec.ofNat_toNat, BitVec.ofNat_toNat, BitVec.setWidth_eq, BitVec.setWidth_eq]

theorem mul_eq_ofInt (a b : Word) : a * b = BitVec.ofInt 32 (a.toInt * b.toInt) := by
  rw [BitVec.ofInt_mul, BitVec.ofInt_toInt, BitVec.ofInt_toInt]

/-- The unsigned reading of a difference, which is negative where SUB borrows (40_alu.md R162). -/
theorem sub_eq_ofInt (a b : Word) : a - b = BitVec.ofInt 32 ((a.toNat : Int) - (b.toNat : Int)) := by
  rw [Int.sub_eq_add_neg, BitVec.ofInt_add, BitVec.ofInt_neg, BitVec.ofInt_natCast, BitVec.ofInt_natCast,
    BitVec.ofNat_toNat, BitVec.ofNat_toNat, BitVec.setWidth_eq, BitVec.setWidth_eq, BitVec.sub_eq_add_neg]

/-- Settles O9: word arithmetic is integer arithmetic of either reading, reduced modulo 2^32. -/
theorem aluAddSubMulWrap : Obligations.AluAddSubMulWrap := by
  unfold Obligations.AluAddSubMulWrap
  intro p a b
  exact ⟨congrArg some (add_eq_ofNat a b), congrArg some (add_eq_ofInt a b), congrArg some (sub_eq_ofInt a b),
    congrArg some (mul_eq_ofNat a b), congrArg some (mul_eq_ofInt a b)⟩

/-! ## Shifts of words -/

/-- The low five bits are the remainder by 32 (40_alu.md R165, R170). -/
theorem shiftAmount_eq_mod (b : Word) : shiftAmount b = b.toNat % 32 := by
  rw [shiftAmount, BitVec.extractLsb'_toNat, Nat.shiftRight_zero]

theorem shiftLeft_eq_ofNat (a : Word) (n : Nat) : a <<< n = BitVec.ofNat 32 (a.toNat * 2 ^ n) := by
  apply BitVec.eq_of_toNat_eq
  rw [BitVec.toNat_shiftLeft, Nat.shiftLeft_eq, BitVec.toNat_ofNat]

theorem ushiftRight_eq_ofNat (a : Word) (n : Nat) : a >>> n = BitVec.ofNat 32 (a.toNat / 2 ^ n) := by
  rw [← Nat.shiftRight_eq_div_pow, ← BitVec.toNat_ushiftRight, BitVec.ofNat_toNat, BitVec.setWidth_eq]

/-- Rounding down is floor division, which is Euclidean division because the divisor is positive
(40_alu.md R167). -/
theorem sshiftRight_eq_ofInt (a : Word) (n : Nat) :
    a.sshiftRight n = BitVec.ofInt 32 (Int.fdiv a.toInt (2 ^ n)) := by
  have hpos : (0 : Int) ≤ 2 ^ n := by positivity
  have hdiv : (a.sshiftRight n).toInt = Int.fdiv a.toInt (2 ^ n) := by
    rw [BitVec.toInt_sshiftRight, Int.shiftRight_eq_div_pow, Int.fdiv_eq_ediv_of_nonneg _ hpos, Nat.cast_pow,
      Nat.cast_ofNat]
  rw [← hdiv, BitVec.ofInt_toInt]

/-- Settles O10: the amount is the remainder by 32, each shift is a product or a quotient by that power of two,
and the immediate forms are the same functions by definition. -/
theorem aluShiftsByLowFiveBits : Obligations.AluShiftsByLowFiveBits := by
  unfold Obligations.AluShiftsByLowFiveBits
  intro p a b n hn
  have hamount : shiftAmount b = n := (shiftAmount_eq_mod b).trans hn.symm
  have hsll : alu p .sll a b = some (a <<< n) := by rw [alu, hamount]
  have hsrl : alu p .srl a b = some (a >>> n) := by rw [alu, hamount]
  have hsra : alu p .sra a b = some (a.sshiftRight n) := by rw [alu, hamount]
  rw [hsll, hsrl, hsra]
  refine ⟨congrArg some (shiftLeft_eq_ofNat a n), congrArg some (ushiftRight_eq_ofNat a n),
    congrArg some (sshiftRight_eq_ofInt a n), hsll, hsrl, hsra, ?_⟩
  rintro rfl
  rw [BitVec.shiftLeft_zero, BitVec.ushiftRight_zero, BitVec.sshiftRight_zero]
  exact ⟨rfl, rfl, rfl⟩

end Sys2Proof.Machine
end

section
/-! O15 and O16: the register instructions ADD, SUB, MUL, SLL, SRL and SRA as whole instructions
(41_register_arith.md R180 to R185). -/

namespace Sys2Proof

/-- An R-type word is told by funct7 and funct3 alone (30_encoding.md R121). -/
theorem decode_r_of_functs {w : Word} {f3 : BitVec 3} {f7 : BitVec 7} (hop : opcodeOf w = 0x33)
    (h7 : funct7Of w = f7) (h3 : funct3Of w = f3) :
    decode w = rTypeInstr (rdOf w) (rs1Of w) (rs2Of w) f3 f7 := by
  rw [decode_r hop, h7, h3]

namespace Machine

/-! ## Whole instructions that make no data access -/

/-- A whole instruction that neither loads nor stores writes its result to its destination and moves pc
(50_pipeline.md R338). -/
theorem perform_whole_of_no_access {w : Work} {s : State} {v : Word} (hwhole : s.activity = .whole)
    (hload : w.load = none) (hstore : w.store = none) (hresult : resultWhole w s = some v) :
    perform w s = .next ((s.writeDest w.rd v).setPc (pcAfter w s)) := by
  simp [perform, hwhole, performWhole, hresult, hload, hstore, State.access]

/-- An instruction whose meaning is the ALU operation `op` on two registers writes the ALU's value on the old
registers to rd, which may be one of the two, and moves pc 4 on. -/
theorem exec_whole_registers {i : Instr} {op : AluOp} {rd rs1 rs2 : Reg} {s : State} {v : Word}
    (hexec : exec i s = perform (Work.registers op rd rs1 rs2) s) (hwhole : s.activity = .whole)
    (halu : alu s.input.divOverflow op (s.readReg rs1) (s.readReg rs2) = some v) :
    exec i s = .next ((s.writeReg rd v).setPc (s.pc + 4)) :=
  hexec.trans (perform_whole_of_no_access hwhole rfl rfl halu)

/-! ## The register instructions -/

/-- Settles O15: the decoder's rows, and the ALU's results of O9 on the registers read. -/
theorem addSubMulResults : Obligations.AddSubMulResults := by
  unfold Obligations.AddSubMulResults
  refine ⟨fun w hop => ⟨decode_r_of_functs hop, decode_r_of_functs hop, decode_r_of_functs hop⟩, ?_⟩
  intro rd rs1 rs2 s hwhole
  obtain ⟨hadd, _, hsub, hmul, _⟩ := aluAddSubMulWrap s.input.divOverflow (s.readReg rs1) (s.readReg rs2)
  exact ⟨exec_whole_registers rfl hwhole hadd, exec_whole_registers rfl hwhole hsub,
    exec_whole_registers rfl hwhole hmul⟩

/-- Settles O16: the decoder's rows, and the ALU's shifts of O10 on the registers read. -/
theorem registerShiftResults : Obligations.RegisterShiftResults := by
  unfold Obligations.RegisterShiftResults
  refine ⟨fun w hop => ⟨decode_r_of_functs hop, decode_r_of_functs hop, decode_r_of_functs hop⟩, ?_⟩
  intro rd rs1 rs2 s n hwhole hn
  obtain ⟨hsll, hsrl, hsra, _⟩ :=
    aluShiftsByLowFiveBits s.input.divOverflow (s.readReg rs1) (s.readReg rs2) n hn
  exact ⟨exec_whole_registers rfl hwhole hsll, exec_whole_registers rfl hwhole hsrl,
    exec_whole_registers rfl hwhole hsra⟩

end Machine

end Sys2Proof
end

section
/-! O18, O19 and O20: the immediate instructions, the five encodings that compute ADD, the immediate shifts, and
LUI and AUIPC (42_immediate_arith.md R200 to R211). -/

namespace Sys2Proof

/-! ## What LUI reads -/

/-- The record of a LUI word is a U-type one, which names no source register (30_encoding.md R114). -/
theorem sources_of_lui {w : Word} (hop : opcodeOf w = 0x37) : (decodeRecord w).sources = [] := by
  have hne : w ≠ 0 := ne_zero_of_opcode hop (by decide)
  have hpayload : payloadOf w = .u (rdOf w) (immU w) := by simp [payloadOf, hop]
  simp [decodeRecord_of_ne_zero hne, hpayload, Record.sources, Record.rs1, Record.rs2]

namespace Machine

/-- A record without source registers waits for no producer (50_pipeline.md R330 to R332). -/
theorem hazard_of_no_sources {ins : Record} (h : ins.sources = []) (fwd : Bool) (c : Latches) :
    hazard fwd c ins = false := by
  cases fwd <;> simp [hazard, stallModeHazard, loadUseHazard, transferHazard, h]

/-! ## Instructions of a register and an immediate -/

/-- An instruction whose meaning is the ALU operation `op` on a register and an immediate writes the ALU's value
on the old register to rd, which may be that register, and moves pc 4 on. -/
theorem exec_whole_immediate {i : Instr} {op : AluOp} {rd rs1 : Reg} {imm : Word} {s : State} {v : Word}
    (hexec : exec i s = perform (Work.immediate op rd rs1 imm) s) (hwhole : s.activity = .whole)
    (halu : alu s.input.divOverflow op (s.readReg rs1) imm = some v) :
    exec i s = .next ((s.writeReg rd v).setPc (s.pc + 4)) :=
  hexec.trans (perform_whole_of_no_access hwhole rfl rfl halu)

/-- Each of the six funct3 values of opcode 0x13 that are no shift has its own constructor, and all six
constructors mean ADD with the immediate (R200 to R205). -/
theorem immediateInstr_add_row {f3 : BitVec 3} {c : Reg → Reg → Word → Instr}
    (h : (f3, c) ∈ [(0#3, Instr.addi), (2, Instr.slti), (3, Instr.sltiu), (4, Instr.xori), (6, Instr.ori),
      (7, Instr.andi)]) :
    (∀ raw rd rs1 imm, immediateInstr raw rd rs1 f3 imm = c rd rs1 imm) ∧
      ∀ rd rs1 imm s, exec (c rd rs1 imm) s = perform (Work.immediate .add rd rs1 imm) s := by
  simp only [List.mem_cons, List.not_mem_nil, or_false, Prod.mk.injEq] at h
  obtain ⟨rfl, rfl⟩ | ⟨rfl, rfl⟩ | ⟨rfl, rfl⟩ | ⟨rfl, rfl⟩ | ⟨rfl, rfl⟩ | ⟨rfl, rfl⟩ := h <;>
    exact ⟨fun _ _ _ _ => rfl, fun _ _ _ _ => rfl⟩

/-- Settles O18: funct3 picks the constructor, and each of the six adds, with O9's reading of the sum. -/
theorem addImmediateResults : Obligations.AddImmediateResults := by
  unfold Obligations.AddImmediateResults
  rintro ⟨f3, c⟩ hp
  obtain ⟨hinstr, hexec⟩ := immediateInstr_add_row hp
  constructor
  · intro w hop h3
    rw [decode_immediate hop, h3, hinstr, immI]
  · intro rd rs1 imm s hwhole
    obtain ⟨hadd, _⟩ := aluAddSubMulWrap s.input.divOverflow (s.readReg rs1) imm
    exact exec_whole_immediate (hexec rd rs1 imm s) hwhole hadd

/-! ## Shifts by an immediate -/

/-- A five-bit amount, widened to the ALU's second operand, is its own remainder by 32 (40_alu.md R168). -/
theorem toNat_setWidth_mod_32 (shamt : BitVec 5) : shamt.toNat = (shamt.setWidth 32).toNat % 32 := by
  rw [BitVec.toNat_setWidth_of_le (by decide), Nat.mod_eq_of_lt shamt.isLt]

/-- Settles O19: raw[30] is the bit the decoder examines, and the results are O10's for the widened amount. -/
theorem immediateShiftResults : Obligations.ImmediateShiftResults := by
  unfold Obligations.ImmediateShiftResults
  constructor
  · intro w hop
    rw [BitVec.getLsbD_eq_extractLsb']
    exact ⟨decode_slli hop, fun h3 h30 => decode_srli hop h3 (beq_eq_false_iff_ne.1 h30),
      fun h3 h30 => decode_srai hop h3 (eq_of_beq h30)⟩
  · intro rd rs1 shamt s hwhole
    obtain ⟨hsll, hsrl, hsra, hslli, hsrli, hsrai, _⟩ := aluShiftsByLowFiveBits s.input.divOverflow (s.readReg rs1)
      (shamt.setWidth 32) shamt.toNat (toNat_setWidth_mod_32 shamt)
    exact ⟨exec_whole_immediate rfl hwhole (hslli.trans hsll), exec_whole_immediate rfl hwhole (hsrli.trans hsrl),
      exec_whole_immediate rfl hwhole (hsrai.trans hsra)⟩

/-! ## Upper immediates -/

/-- An instruction whose meaning is a value of its own address writes that value, taken at pc, to rd, and moves pc
4 on. -/
theorem exec_whole_upper {i : Instr} {rd : Reg} {s : State} (value : Word → Word)
    (hexec : exec i s = perform (Work.upper rd value) s) (hwhole : s.activity = .whole) :
    exec i s = .next ((s.writeReg rd (value s.pc)).setPc (s.pc + 4)) :=
  hexec.trans (perform_whole_of_no_access hwhole rfl rfl rfl)

/-- In EX it hands on that value, taken at the latch's pc (50_pipeline.md R305). -/
theorem exec_ex_upper {i : Instr} {rd : Reg} {s : State} (value : Word → Word)
    (hexec : exec i s = perform (Work.upper rd value) s) (hex : s.activity = .ex) :
    ∃ t, exec i s = .next t ∧ t.nxt.exmem.aluResult = value s.cur.idex.pc := by
  have hresult : resultInEx (Work.upper rd value) s = some (value s.cur.idex.pc) := rfl
  rw [hexec]
  simp [perform, hex, execute, hresult]

/-- Settles O20: the decoder's rows, no source for LUI to wait for, and the two values of an instruction's own
address, at pc between cycles and at ID/EX's pc in EX. -/
theorem upperImmediateResults : Obligations.UpperImmediateResults := by
  unfold Obligations.UpperImmediateResults
  constructor
  · exact fun w => ⟨fun hop => ⟨decode_lui hop, hazard_of_no_sources (sources_of_lui hop)⟩, decode_auipc⟩
  · intro rd imm s
    constructor
    · intro hwhole
      rw [← add_eq_ofNat]
      exact ⟨exec_whole_upper (fun _ => imm) rfl hwhole, exec_whole_upper (· + imm) rfl hwhole⟩
    · intro hex
      rw [← add_eq_ofNat]
      obtain ⟨t, hlui, ht⟩ := exec_ex_upper (i := .lui rd imm) (fun _ => imm) rfl hex
      obtain ⟨u, hauipc, hu⟩ := exec_ex_upper (i := .auipc rd imm) (· + imm) rfl hex
      exact ⟨t, u, hlui, ht, hauipc, hu⟩

end Machine

end Sys2Proof
end

section
/-! O21: the loads LB, LH, LW, LBU and LHU as whole instructions (43_loads_stores.md R230 to R235). -/

namespace Sys2Proof

/-- Each of the five funct3 values of a load has its own constructor (30_encoding.md R137 (b)). -/
theorem loadInstr_row {f3 : BitVec 3} {c : Reg → Reg → Word → Instr}
    (h : (f3, c) ∈ [(0#3, Instr.lb), (1, Instr.lh), (2, Instr.lw), (4, Instr.lbu), (5, Instr.lhu)])
    (rd rs1 : Reg) (imm : Word) : loadInstr rd rs1 f3 imm = .ok (c rd rs1 imm) := by
  simp only [List.mem_cons, List.not_mem_nil, or_false, Prod.mk.injEq] at h
  obtain ⟨rfl, rfl⟩ | ⟨rfl, rfl⟩ | ⟨rfl, rfl⟩ | ⟨rfl, rfl⟩ | ⟨rfl, rfl⟩ := h <;> rfl

namespace Machine

/-- Under OOB_POLICY = ignore a load has its extended bytes in range and 0 out of range (20_memory.md R71, R74). -/
theorem State.load_of_ignore {s : State} (hoob : s.input.oobPolicy = .ignore) (k : LoadKind) (ea : Word) :
    s.load k ea = some (if ea.toNat + k.size ≤ Config.memSize then s.mem.loadValue k ea.toNat else 0) := by
  by_cases hin : ea.toNat + k.size ≤ Config.memSize
  · rw [State.load_in_range hin, if_pos hin]
  · simp [State.load, inRange, hin, hoob]

/-- A whole instruction whose data access completes writes the value loaded, or its result where it is no load, to
its destination and moves pc (50_pipeline.md R338). -/
theorem perform_whole_of_access {w : Work} {s t : State} {r v : Word} (hwhole : s.activity = .whole)
    (hresult : resultWhole w s = some r)
    (haccess : s.access w.load w.store r (s.operand w.rs2) = some (v, t)) :
    perform w s = .next ((t.writeDest w.rd (if w.load.isSome then v else r)).setPc (pcAfter w s)) := by
  simp [perform, hwhole, performWhole, hresult, haccess]

/-- An instruction whose meaning is a load of kind `k` completes at every address: it writes the value loaded to
rd, which may be its base register, and moves pc 4 on. -/
theorem exec_whole_loading {i : Instr} {k : LoadKind} {rd rs1 : Reg} {imm : Word} {s : State} {x : Nat}
    (hexec : exec i s = perform (Work.loading k rd rs1 imm) s) (hwhole : s.activity = .whole)
    (hoob : s.input.oobPolicy = .ignore) (hx : x = (s.readReg rs1 + imm).toNat) :
    exec i s = .next ((s.writeReg rd
      (if x + k.size ≤ Config.memSize then s.mem.loadValue k x else 0)).setPc (s.pc + 4)) := by
  have hload := State.load_of_ignore hoob k (s.readReg rs1 + imm)
  rw [← hx] at hload
  have haccess : s.access (some k) none (s.readReg rs1 + imm) 0 =
      some (if x + k.size ≤ Config.memSize then s.mem.loadValue k x else 0, s) := by
    simp [State.access, hload]
  exact hexec.trans (perform_whole_of_access hwhole rfl haccess)

/-- Settles O21: the decoder's rows, and one law of whole loads at the five kinds. -/
theorem loadResults : Obligations.LoadResults := by
  unfold Obligations.LoadResults
  constructor
  · rintro w hop ⟨f3, c⟩ hp h3
    rw [decode_load hop, h3, loadInstr_row hp, immI]
  · intro rd rs1 imm s x hwhole hoob hx
    exact ⟨exec_whole_loading (k := .byte) rfl hwhole hoob hx, exec_whole_loading (k := .half) rfl hwhole hoob hx,
      exec_whole_loading (k := .word) rfl hwhole hoob hx, exec_whole_loading (k := .byteU) rfl hwhole hoob hx,
      exec_whole_loading (k := .halfU) rfl hwhole hoob hx⟩

end Machine

end Sys2Proof
end

section
/-! O22: the stores SB, SH and SW as whole instructions (43_loads_stores.md R240 to R243). What a store leaves in
memory is stated for every kind, SD included. -/

namespace Sys2Proof

/-- Each of the three funct3 values of SB, SH and SW has its own constructor (30_encoding.md R137 (c)). -/
theorem storeInstr_row {f3 : BitVec 3} {c : Reg → Reg → Word → Instr}
    (h : (f3, c) ∈ [(0#3, Instr.sb), (1, Instr.sh), (2, Instr.sw)]) (rs1 rs2 : Reg) (imm : Word) :
    storeInstr rs1 rs2 f3 imm = .ok (c rs1 rs2 imm) := by
  simp only [List.mem_cons, List.not_mem_nil, or_false, Prod.mk.injEq] at h
  obtain ⟨rfl, rfl⟩ | ⟨rfl, rfl⟩ | ⟨rfl, rfl⟩ := h <;> rfl

namespace Machine

/-! ## What a store leaves in memory -/

/-- The first four bytes of every store are those of rs2 (R240 to R244). -/
theorem storeBytes_getElem_of_lt_four (k : StoreKind) (d high : Word) {j : Nat} (hj : j < k.size) (h4 : j < 4) :
    (storeBytes k d high)[j]'(by simpa using hj) = byteOf d j := by
  cases k <;> simp only [StoreKind.size] at hj <;> interval_cases j <;> rfl

/-- In range, the bytes of the store stand at its address and every other byte is the old one (20_memory.md
R72). -/
theorem State.read_store_in_range {s t : State} {k : StoreKind} {ea d : Word} (hw : s.mem.wf = true)
    (hin : ea.toNat + k.size ≤ Config.memSize) (h : s.store k ea d = some t) :
    (∀ j (hj : j < k.size),
        t.mem.read (ea.toNat + j) = (s.bytesToStore k d)[j]'(by simpa [State.bytesToStore] using hj)) ∧
      ∀ y, y < ea.toNat ∨ ea.toNat + k.size ≤ y → t.mem.read y = s.mem.read y := by
  rw [State.store_in_range hin] at h
  obtain rfl := Option.some.inj h
  rw [State.afterDraw_mem, State.setMem_mem]
  constructor
  · exact fun j hj => Memory.read_writeBytes_inside hw _ _ _ _
  · exact fun y hy => Memory.read_writeBytes_outside _ (by simpa [State.bytesToStore] using hy)

/-- A store whose last byte is past MEM_SIZE writes none of its bytes (20_memory.md R73). -/
theorem State.store_out_of_range_mem {s t : State} {k : StoreKind} {ea d : Word}
    (hout : Config.memSize < ea.toNat + k.size) (h : s.store k ea d = some t) : t.mem = s.mem := by
  rcases State.store_cases h with ⟨hin, _⟩ | ⟨_, _, rfl⟩
  · have hle : ea.toNat + k.size ≤ Config.memSize := by simpa [inRange] using hin
    omega
  · exact State.afterDraw_mem s k

/-- A store that is no SD draws nothing: it changes memory alone. -/
theorem State.store_eq_setMem {s t : State} {k : StoreKind} {ea d : Word} (hk : k ≠ .double)
    (h : s.store k ea d = some t) : t = s.setMem t.mem := by
  have hdraw : ∀ u : State, u.afterDraw k = u := by
    intro u
    cases k with
    | double => exact absurd rfl hk
    | byte => rfl
    | half => rfl
    | word => rfl
  rcases State.store_cases h with ⟨_, rfl⟩ | ⟨_, _, rfl⟩ <;> rw [hdraw] <;> rfl

/-! ## The store instructions -/

/-- An instruction whose meaning is a store makes that store at rs1 plus the immediate and moves pc 4 on. -/
theorem exec_whole_storing {i : Instr} {k : StoreKind} {rs1 rs2 : Reg} {imm : Word} {s t : State}
    (hexec : exec i s = perform (Work.storing k rs1 rs2 imm) s) (hwhole : s.activity = .whole)
    (hstore : s.store k (s.readReg rs1 + imm) (s.readReg rs2) = some t) :
    exec i s = .next (t.setPc (s.pc + 4)) := by
  have haccess : s.access none (some k) (s.readReg rs1 + imm) (s.readReg rs2) = some (0, t) := by
    simp [State.access, hstore]
  exact hexec.trans (perform_whole_of_access hwhole rfl haccess)

/-- SB, SH and SW mean stores of 1, 2 and 4 bytes. -/
theorem exec_storing_row {n : Nat} {i : Instr} {rs1 rs2 : Reg} {imm : Word}
    (h : (n, i) ∈ [(1, Instr.sb rs1 rs2 imm), (2, Instr.sh rs1 rs2 imm), (4, Instr.sw rs1 rs2 imm)]) :
    ∃ k : StoreKind, k ≠ .double ∧ k.size = n ∧ k.size ≤ 4 ∧
      ∀ s, exec i s = perform (Work.storing k rs1 rs2 imm) s := by
  simp only [List.mem_cons, List.not_mem_nil, or_false, Prod.mk.injEq] at h
  obtain ⟨rfl, rfl⟩ | ⟨rfl, rfl⟩ | ⟨rfl, rfl⟩ := h
  · exact ⟨.byte, by decide, rfl, by decide, fun _ => rfl⟩
  · exact ⟨.half, by decide, rfl, by decide, fun _ => rfl⟩
  · exact ⟨.word, by decide, rfl, by decide, fun _ => rfl⟩

/-- Settles O22: the decoder's rows, and under OOB_POLICY = ignore a state after the store, with its bytes in range
and the old memory out of range. -/
theorem storeResults : Obligations.StoreResults := by
  unfold Obligations.StoreResults
  constructor
  · rintro w hop ⟨f3, c⟩ hp h3
    rw [decode_store hop, h3, storeInstr_row hp, immS]
  · rintro rs1 rs2 imm s x hwhole hw hoob rfl ⟨n, i⟩ hp
    obtain ⟨k, hk, rfl, hfour, hexec⟩ := exec_storing_row hp
    obtain ⟨t, hstore⟩ := State.store_isSome hoob k (s.readReg rs1 + imm) (s.readReg rs2)
    refine ⟨t.mem, ?_, State.store_wf hstore hw, fun hin => ?_, fun hout => State.store_out_of_range_mem hout hstore⟩
    · rw [← State.store_eq_setMem hk hstore]
      exact exec_whole_storing (hexec s) hwhole hstore
    · obtain ⟨hbytes, hframe⟩ := State.read_store_in_range hw hin hstore
      exact ⟨fun j hj => (hbytes j hj).trans (storeBytes_getElem_of_lt_four k _ _ hj (hj.trans_le hfour)), hframe⟩

end Machine

end Sys2Proof
end

section
/-! O24: the six branches in ID and as whole instructions (44_control_transfer.md R260 to R266). -/

namespace Sys2Proof.Machine

/-! ## Comparisons -/

theorem condEq_eq : condEq = fun a b => decide (a = b) := rfl

theorem condNe_eq : condNe = fun a b => decide (a ≠ b) := by
  funext a b
  exact decide_not.symm

/-! ## The part of an instruction in ID -/

/-- In ID an instruction signals its work's redirect, from the address in IF/ID and the operands ID reads, and writes
no register and no byte (50_pipeline.md R316). -/
theorem exec_id {i : Instr} {w : Work} {s : State} (hexec : exec i s = perform w s) (hid : s.activity = .id) :
    ∃ t, exec i s = .next t ∧ t.regs = s.regs ∧ t.mem = s.mem ∧
      t.redirect = w.target s.cur.ifid.pc (s.operandInId w.rs1) (s.operandInId w.rs2) := by
  have hperform : perform w s = accept w s := by simp only [perform, hid]
  exact ⟨_, (hexec.trans hperform).trans (accept_next w s), rfl, rfl, rfl⟩

/-! ## The branches -/

/-- Each of the six funct3 values of a branch has its own constructor, and each constructor means the branch on its
own comparison (30_encoding.md R137 (d), R261 to R266). -/
theorem branchInstr_row {f3 : BitVec 3} {c : Reg → Reg → Word → Instr} {cond : Word → Word → Bool}
    (h : (f3, c, cond) ∈ [(0#3, Instr.beq, fun a b : Word => decide (a = b)),
      (1, Instr.bne, fun a b => decide (a ≠ b)),
      (4, Instr.blt, fun a b => decide (a.toInt < b.toInt)),
      (5, Instr.bge, fun a b => decide (b.toInt ≤ a.toInt)),
      (6, Instr.bltu, fun a b => decide (a.toNat < b.toNat)),
      (7, Instr.bgeu, fun a b => decide (b.toNat ≤ a.toNat))]) :
    (∀ rs1 rs2 imm, branchInstr rs1 rs2 f3 imm = .ok (c rs1 rs2 imm)) ∧
      ∀ rs1 rs2 imm s, exec (c rs1 rs2 imm) s = perform (Work.branching cond rs1 rs2 imm) s := by
  rw [← condEq_eq, ← condNe_eq] at h
  simp only [List.mem_cons, List.not_mem_nil, or_false, Prod.mk.injEq] at h
  obtain ⟨rfl, rfl, rfl⟩ | ⟨rfl, rfl, rfl⟩ | ⟨rfl, rfl, rfl⟩ | ⟨rfl, rfl, rfl⟩ | ⟨rfl, rfl, rfl⟩ |
    ⟨rfl, rfl, rfl⟩ := h <;>
    exact ⟨fun _ _ _ => rfl, fun _ _ _ _ => rfl⟩

/-- An instruction whose meaning is a branch moves pc alone, to the target of its comparison. -/
theorem exec_whole_branching {i : Instr} {cond : Word → Word → Bool} {rs1 rs2 : Reg} {imm : Word} {s : State}
    (hexec : exec i s = perform (Work.branching cond rs1 rs2 imm) s) (hwhole : s.activity = .whole) :
    exec i s = .next (s.setPc (if cond (s.readReg rs1) (s.readReg rs2) then s.pc + imm else s.pc + 4)) :=
  hexec.trans (perform_whole_of_no_access hwhole rfl rfl rfl)

/-- Settles O24: funct3 picks the constructor, and all six share the work of a branch on a comparison. -/
theorem branchResults : Obligations.BranchResults := by
  unfold Obligations.BranchResults
  rintro ⟨f3, c, cond⟩ hp
  obtain ⟨hinstr, hexec⟩ := branchInstr_row hp
  refine ⟨fun w hop h3 => ?_, fun rs1 rs2 imm s hid => exec_id (hexec rs1 rs2 imm s) hid,
    fun rs1 rs2 imm s hwhole => exec_whole_branching (hexec rs1 rs2 imm s) hwhole⟩
  rw [decode_branch hop, h3, hinstr, immB]

end Sys2Proof.Machine
end

section
/-! O41: what a redirect signalled in ID does to pc, to the fetch of its cycle and to the next cycle's fetch
(44_control_transfer.md R260, 50_pipeline.md R316, R340). -/

namespace Sys2Proof.Machine

/-! ## IF in a cycle that does not stall -/

/-- In a step that does not stall, IF sees the inputs and pc of the state before it and the redirect of the record in
IF/ID; what it leaves in IF/ID is the step's. -/
theorem step_ifStage {s t : State} (h : step s = .next t)
    (hz : hazard s.input.fwd s.cur s.cur.ifid.ins = false) :
    ∃ s4 s5, ifStage s4 = .next s5 ∧ t.cur.ifid = s5.nxt.ifid ∧
      s4 = { s4 with input := s.input, pc := s.pc, stalled := false } ∧
      s4.redirect = redirectOf s.cur.ifid.ins s.cur.ifid.pc t.cur.idex.a t.cur.idex.b := by
  obtain ⟨s1, s2, s3, s4, s5, hwb, hmem, hex, hid, hif, rfl⟩ := oneCycle_cases (step_cases h).2
  have hs3 : s3 = { s3 with input := s.input, cur := s.cur, pc := s.pc } := by
    rw [exStage_frame hex, memStage_frame hmem, wbStage_frame hwb]
  have hcur : s3.cur = s.cur := by rw [hs3]
  have hinput : s3.input = s.input := by rw [hs3]
  have hpc : s4.pc = s.pc := by rw [idStage_frame hid, hs3]
  have hidex : (commit s5).cur.idex = s4.nxt.idex := by rw [commit_cur, ifStage_frame hif]
  obtain ⟨_, hstalled, hredirect⟩ := idStage_accepts hid (by rwa [hcur, hinput])
  refine ⟨s4, s5, hif, rfl, ?_, ?_⟩
  · rw [← hstalled, ← hinput, ← hpc, ← idStage_input hid]
  · rw [hredirect, hcur, hidex]

/-- What a fetch reads depends on the inputs and pc alone. -/
theorem fetched_congr {s t : State} (hinput : t.input = s.input) (hpc : t.pc = s.pc) : fetched t = fetched s := by
  simp only [fetched, State.wordAt, hinput, hpc]

/-- IF/ID after a step that does not stall: squashed by a redirect, and otherwise what the fetch at pc reads
(50_pipeline.md R340). -/
theorem step_ifid {s t : State} (h : step s = .next t)
    (hz : hazard s.input.fwd s.cur s.cur.ifid.ins = false) :
    t.cur.ifid = if (redirectOf s.cur.ifid.ins s.cur.ifid.pc t.cur.idex.a t.cur.idex.b).isSome
      then IfId.empty else fetched s := by
  obtain ⟨s4, s5, hif, hifid, hs4, hredirect⟩ := step_ifStage h hz
  have hstalled : s4.stalled = false := by rw [hs4]
  rw [← hredirect, hifid]
  rcases ifStage_cases hif with ⟨hskip, rfl⟩ | ⟨_, hnone, _, rfl⟩
  · have hsome : s4.redirect.isSome = true := hskip.resolve_left (by simp [hstalled])
    simp [hsome, holdOrSquash, hstalled]
  · rw [State.record_nxt, State.setIfid_nxt, hnone]
    exact fetched_congr (by rw [hs4]) (by rw [hs4])

/-! ## The cycle after a redirect -/

/-- Behind a squashed fetch the next step fetches at pc: the NOP in IF/ID waits for no producer and does not
redirect. -/
theorem step_ifid_of_squashed {s t : State} (h : step s = .next t) (hempty : s.cur.ifid = IfId.empty) :
    t.cur.ifid = fetched s := by
  have hsources : s.cur.ifid.ins.sources = [] := by rw [hempty]; rfl
  have hnone : redirectOf s.cur.ifid.ins s.cur.ifid.pc t.cur.idex.a t.cur.idex.b = none := by rw [hempty]; rfl
  simpa [hnone] using step_ifid h (hazard_of_no_sources hsources _ _)

/-- Settles O41: ID's redirect is pc and squashes IF, and the next step fetches at pc. -/
theorem resolutionInDecode : Obligations.ResolutionInDecode := by
  unfold Obligations.ResolutionInDecode
  intro s t target h hz htarget
  obtain ⟨hidex, hpc⟩ := step_accepts h hz
  have hifid := step_ifid h hz
  rw [htarget] at hpc hifid
  replace hpc : t.pc = target := hpc
  refine ⟨hpc, hifid, by rw [hidex], by rw [hidex], fun u hu => ?_⟩
  rw [step_ifid_of_squashed hu hifid, ← hpc]
  exact ⟨rfl, fun haligned => congrArg decodeFetched (wordAt_aligned t haligned)⟩

end Sys2Proof.Machine
end

section
/-! O50 and O53: producers and stalls (50_pipeline.md R330 to R334). A producer is a latch whose signals write
its record's destination, never x0; each hazard is a source met by such a latch. -/

namespace Sys2Proof.Machine

/-! ## Producers and the mux (R333, R334) -/

/-- A producer of `r` writes its destination, which is `r` and not x0. -/
theorem produces_iff (ctl : Control) (ins : Record) (r : Reg) :
    produces ctl ins r = true ↔ ctl.regWrite = true ∧ ins.rd = some r ∧ r ≠ 0 := by
  unfold produces
  cases ins.rd with
  | none => simp
  | some d =>
    by_cases hd : d = r
    · simp [hd]
    · simp [hd]

theorem produces_of_rd_zero {ins : Record} (h : ins.rd = some 0) (ctl : Control) (r : Reg) :
    produces ctl ins r = false := by
  rw [Bool.eq_false_iff, ne_eq, produces_iff, h]
  rintro ⟨_, hr, hne⟩
  exact hne (Option.some.inj hr).symm

theorem forward_of_no_producer {c : Latches} {r : Reg} (hr : r ≠ 0)
    (hexmem : produces c.exmem.ctl c.exmem.ins r = false) (hmemwb : produces c.memwb.ctl c.memwb.ins r = false)
    (v : Word) : forward c r v = v := by
  have hr0 : ¬r = 0#5 := hr
  simp [forward, hr0, hexmem, hmemwb]

/-! ## Hazards (R330 to R332) -/

/-- With FWD = false a source waits for any producer in ID/EX or EX/MEM. -/
theorem hazard_false_iff (c : Latches) (ins : Record) :
    hazard false c ins = true ↔
      ∃ r ∈ ins.sources, produces c.idex.ctl c.idex.ins r = true ∨ produces c.exmem.ctl c.exmem.ins r = true := by
  simp only [hazard, Bool.false_eq_true, if_false, stallModeHazard, List.any_eq_true, Bool.and_eq_true,
    Bool.or_eq_true, bne_iff_ne]
  refine exists_congr fun r => and_congr_right fun _ => and_iff_right_of_imp ?_
  simp only [produces_iff]
  rintro (⟨_, _, h0⟩ | ⟨_, _, h0⟩) <;> exact h0

/-- With FWD = true a source waits for a load in ID/EX, and where ID itself uses it also for any producer there
and for a load in EX/MEM. -/
theorem hazard_true_iff (c : Latches) (ins : Record) :
    hazard true c ins = true ↔
      ∃ r ∈ ins.sources, (c.idex.ctl.memRead = true ∧ produces c.idex.ctl c.idex.ins r = true) ∨
        (readsInDecode ins = true ∧ (produces c.idex.ctl c.idex.ins r = true ∨
          c.exmem.ctl.memRead = true ∧ produces c.exmem.ctl c.exmem.ins r = true)) := by
  have hne {ctl : Control} {q : Record} {r : Reg} (h : produces ctl q r = true) : r ≠ 0 :=
    ((produces_iff ctl q r).1 h).2.2
  simp only [hazard, if_true, loadUseHazard, transferHazard, List.any_eq_true, Bool.and_eq_true, Bool.or_eq_true,
    bne_iff_ne]
  constructor
  · rintro (⟨r, hr, _, hload⟩ | ⟨hreads, r, hr, _, hprod⟩)
    · exact ⟨r, hr, .inl hload⟩
    · exact ⟨r, hr, .inr ⟨hreads, hprod⟩⟩
  · rintro ⟨r, hr, hload | ⟨hreads, hprod⟩⟩
    · exact .inl ⟨r, hr, hne hload.2, hload⟩
    · exact .inr ⟨hreads, r, hr, hprod.elim hne fun h => hne h.2, hprod⟩

theorem readsInDecode_iff (ins : Record) : readsInDecode ins = true ↔ ins.opcode = 0x63 ∨ ins.opcode = 0x67 := by
  simp [readsInDecode]

/-- Latches that produce none of an instruction's sources never stall it. -/
theorem hazard_of_no_producer {c : Latches} {ins : Record}
    (hidex : ∀ r ∈ ins.sources, produces c.idex.ctl c.idex.ins r = false)
    (hexmem : ∀ r ∈ ins.sources, produces c.exmem.ctl c.exmem.ins r = false) (fwd : Bool) :
    hazard fwd c ins = false := by
  cases fwd with
  | false =>
    rw [Bool.eq_false_iff, ne_eq, hazard_false_iff]
    rintro ⟨r, hr, h⟩
    simp [hidex r hr, hexmem r hr] at h
  | true =>
    rw [Bool.eq_false_iff, ne_eq, hazard_true_iff]
    rintro ⟨r, hr, h⟩
    simp [hidex r hr, hexmem r hr] at h

/-- Settles O50: a producer of x0 matches nothing, and x0 is never matched. -/
theorem x0NeverStallsOrForwards : Obligations.X0NeverStallsOrForwards := by
  unfold Obligations.X0NeverStallsOrForwards
  have hx0 (ctl : Control) (ins : Record) : produces ctl ins 0 = false := by
    rw [Bool.eq_false_iff, ne_eq, produces_iff]
    rintro ⟨_, _, h0⟩
    exact h0 rfl
  refine ⟨forward_zero, fun ctl ins r h => produces_of_rd_zero h ctl r, fun fwd c ins h => ?_,
    fun fwd c ins hidex hexmem => ?_, fun c r v hexmem hmemwb hr => ?_⟩
  · exact hazard_of_no_producer (fun r hr => h r hr ▸ hx0 _ _) (fun r hr => h r hr ▸ hx0 _ _) fwd
  · exact hazard_of_no_producer (fun r _ => produces_of_rd_zero hidex _ r)
      (fun r _ => produces_of_rd_zero hexmem _ r) fwd
  · exact forward_of_no_producer hr (produces_of_rd_zero hexmem _ r) (produces_of_rd_zero hmemwb _ r) v

/-- Settles O53: the two hazards as sources met by producers, with a producer's own conditions written out. -/
theorem stallsExactlyBehindTheseProducers : Obligations.StallsExactlyBehindTheseProducers := by
  unfold Obligations.StallsExactlyBehindTheseProducers
  refine ⟨fun c ins => ?_, fun c ins => ?_, fun c ins hload hbranch hjalr => ?_⟩
  · rw [hazard_false_iff]
    refine exists_congr fun r => and_congr_right fun _ => ?_
    simp only [produces_iff]
    tauto
  · rw [hazard_true_iff]
    refine exists_congr fun r => and_congr_right fun _ => ?_
    simp only [produces_iff, readsInDecode_iff]
    tauto
  · rw [Bool.eq_false_iff, ne_eq, hazard_true_iff]
    have hreads : ¬readsInDecode ins = true := by
      rw [readsInDecode_iff]
      exact not_or.2 ⟨hbranch, hjalr⟩
    rintro ⟨r, _, h⟩
    simp [hload, hreads] at h

end Sys2Proof.Machine
end

section
/-! The laws of the log that the statements about a cycle's log use (50_pipeline.md R360, R361): what a recorded
name does to its cell, and the record of a latch that may have no id. -/

namespace Sys2Proof.Machine

/-! ## One name added to a cell -/

/-- "-" goes only into an empty cell. -/
theorem logAdd_dash_of_nonempty {log : List LogEntry} {id cycle : Nat} (h : logCell log id cycle ≠ []) :
    logAdd log id cycle .dash = log := by
  rw [logAdd, if_pos rfl, if_neg h]

theorem logCell_logAdd_dash_of_empty {log : List LogEntry} {id cycle : Nat} (h : logCell log id cycle = []) :
    logCell (logAdd log id cycle .dash) id cycle = [.dash] := by
  rw [logAdd, if_pos rfl, if_pos h]
  simpa [logCell] using h

/-- A real name replaces the "-" and an earlier copy of itself. -/
theorem logCell_logAdd_same (log : List LogEntry) (id cycle : Nat) {n : StageName} (h : n ≠ .dash) :
    logCell (logAdd log id cycle n) id cycle =
      n :: (logCell log id cycle).filter fun m => !(m == .dash || m == n) := by
  rw [logAdd, if_neg h]
  simp only [logCell, List.filter_cons, beq_self_eq_true, Bool.and_self, if_true, List.map_cons,
    List.filter_filter, List.filter_map]
  congr 2
  refine List.filter_congr fun e _ => ?_
  cases e.id == id && e.cycle == cycle <;> simp

theorem mem_logCell_logAdd_iff {log : List LogEntry} {id cycle : Nat} {n m : StageName} (h : n ≠ .dash) :
    m ∈ logCell (logAdd log id cycle n) id cycle ↔ m = n ∨ (m ∈ logCell log id cycle ∧ m ≠ .dash) := by
  rw [logCell_logAdd_same log id cycle h, List.mem_cons, List.mem_filter]
  by_cases hm : m = n <;> simp [hm]

/-- Adding a name keeps "-" alone in its cell. -/
theorem dashAlone_logAdd {log : List LogEntry} (h : dashAlone log) (id cycle : Nat) (n : StageName) :
    dashAlone (logAdd log id cycle n) := by
  intro id' cycle' hdash
  by_cases hcell : id = id' ∧ cycle = cycle'
  · obtain ⟨rfl, rfl⟩ := hcell
    by_cases hn : n = .dash
    · subst hn
      by_cases hempty : logCell log id cycle = []
      · exact logCell_logAdd_dash_of_empty hempty
      · rw [logAdd_dash_of_nonempty hempty] at hdash ⊢
        exact h id cycle hdash
    · rcases (mem_logCell_logAdd_iff hn).1 hdash with hd | ⟨_, hd⟩
      · exact absurd hd.symm hn
      · exact absurd rfl hd
  · rw [logCell_logAdd_other hcell] at hdash ⊢
    exact h id' cycle' hdash

/-! ## The record of a latch -/

/-- The log after the stage name of a latch's instruction; a latch with no id adds nothing (R360). -/
def logged (log : List LogEntry) (id : Option Nat) (cycle : Nat) (n : StageName) : List LogEntry :=
  match id with
  | none => log
  | some k => logAdd log k cycle n

@[simp] theorem State.record_log (s : State) (id : Option Nat) (n : StageName) :
    (s.record id n).log = logged s.log id s.cycle n := by
  cases id <;> rfl

theorem dashAlone_logged {log : List LogEntry} (h : dashAlone log) (id : Option Nat) (cycle : Nat) (n : StageName) :
    dashAlone (logged log id cycle n) := by
  cases id with
  | none => exact h
  | some k => exact dashAlone_logAdd h k cycle n

section
variable {log : List LogEntry} {id : Option Nat} {k cycle : Nat} {n : StageName}

/-- A latch of another id leaves a cell as it is. -/
theorem logCell_logged_ne (h : id ≠ some k) : logCell (logged log id cycle n) k cycle = logCell log k cycle := by
  cases id with
  | none => rfl
  | some j => exact logCell_logAdd_other fun hj => h (by rw [hj.1])

/-- A real name stands in a cell where it was recorded or stood before. -/
theorem mem_logged_real {m : StageName} (hm : m ≠ .dash) :
    m ∈ logCell (logged log id cycle n) k cycle ↔ (id = some k ∧ m = n) ∨ m ∈ logCell log k cycle := by
  by_cases hid : id = some k
  · subst hid
    by_cases hn : n = .dash
    · subst hn
      by_cases hempty : logCell log k cycle = []
      · simp [logged, logCell_logAdd_dash_of_empty hempty, hempty, hm]
      · simp [logged, logAdd_dash_of_nonempty hempty, hm]
    · simp [logged, mem_logCell_logAdd_iff hn, hm]
  · simp [logCell_logged_ne hid, hid]

/-- A real name removes the "-" of its cell. -/
theorem dash_mem_logged_real (hn : n ≠ .dash) :
    .dash ∈ logCell (logged log id cycle n) k cycle ↔ id ≠ some k ∧ .dash ∈ logCell log k cycle := by
  by_cases hid : id = some k
  · subst hid
    simp [logged, mem_logCell_logAdd_iff hn, hn.symm]
  · simp [logCell_logged_ne hid, hid]

/-- A recorded "-" stands in a cell that was empty, or that held one. -/
theorem dash_mem_logged_dash :
    .dash ∈ logCell (logged log id cycle .dash) k cycle ↔
      (id = some k ∧ logCell log k cycle = []) ∨ .dash ∈ logCell log k cycle := by
  by_cases hid : id = some k
  · subst hid
    by_cases hempty : logCell log k cycle = []
    · simp [logged, logCell_logAdd_dash_of_empty hempty, hempty]
    · simp [logged, logAdd_dash_of_nonempty hempty, hempty]
  · simp [logCell_logged_ne hid, hid]

theorem logCell_logged_real_eq_nil (hn : n ≠ .dash) :
    logCell (logged log id cycle n) k cycle = [] ↔ id ≠ some k ∧ logCell log k cycle = [] := by
  by_cases hid : id = some k
  · subst hid
    simp [logged, logCell_logAdd_same log k cycle hn]
  · simp [logCell_logged_ne hid, hid]

/-- The three stages behind ID leave a cell empty where none of them holds its id. -/
theorem logCell_backEnd_eq_nil {wb mem ex : Option Nat} :
    logCell (logged (logged (logged log wb cycle .WB) mem cycle .MEM) ex cycle .EX) k cycle = [] ↔
      wb ≠ some k ∧ mem ≠ some k ∧ ex ≠ some k ∧ logCell log k cycle = [] := by
  rw [logCell_logged_real_eq_nil (by decide), logCell_logged_real_eq_nil (by decide),
    logCell_logged_real_eq_nil (by decide)]
  tauto

end

/-- A log of past cycles has nothing in the current one's cells (50_pipeline.md R362). -/
theorem Inv.logCell_eq_nil {s : State} (h : Inv s) (k : Nat) : logCell s.log k s.cycle = [] := by
  simp only [logCell, List.map_eq_nil_iff, List.filter_eq_nil_iff, Bool.and_eq_true, beq_iff_eq, not_and]
  intro e he _ hcycle
  have := List.all_eq_true.1 h.past e he
  simp [hcycle] at this

end Sys2Proof.Machine
end

section
/-! O37: what the back end of a cycle, WB, MEM and EX, makes of the latches (50_pipeline.md R301 to R306). Each
stage's product is a function of the state before the cycle; a stage of a supported record either gives that
product or ends the cycle in its fault. -/

namespace Sys2Proof.Machine

/-! ## The signals of a record (30_encoding.md R131) -/

theorem control_of_instr {ins : Record} {i : Instr} (h : ins.instr = .ok i) : control ins = signalTable i := by
  obtain ⟨raw, op, payload⟩ := ins
  cases payload with
  | r rd rs1 rs2 f3 f7 =>
    simp only [Record.instr, rTypeInstr] at h
    split_ifs at h <;> cases h <;> simp_all [control, rTypeAluOp, signalTable]
  | i rd rs1 f3 imm =>
    simp only [Record.instr, immediateInstr, loadInstr] at h
    split_ifs at h <;> cases h <;> simp_all [control, immediateAluOp, signalTable]
  | s rs1 rs2 f3 imm =>
    simp only [Record.instr, storeInstr] at h
    split_ifs at h <;> cases h <;> rfl
  | b rs1 rs2 f3 imm =>
    simp only [Record.instr, branchInstr] at h
    split_ifs at h <;> cases h <;> rfl
  | u rd imm =>
    simp only [Record.instr] at h
    split_ifs at h <;> cases h <;> rfl
  | j rd imm =>
    simp only [Record.instr] at h
    split_ifs at h
    cases h
    rfl
  | nop => cases h; rfl
  | unknown => cases h; rfl

theorem signalTable_memRead (i : Instr) : (signalTable i).memRead = i.loadKind.isSome := by cases i <;> rfl

theorem signalTable_memWrite (i : Instr) : (signalTable i).memWrite = i.storeKind.isSome := by cases i <;> rfl

/-! ## What each stage of the back end makes -/

/-- A data access as what it leaves behind: the loaded value, memory and the draw counter. -/
def State.accessed (s : State) (load : Option LoadKind) (store : Option StoreKind) (ea d : Word) :
    Option (Word × Memory × Nat) :=
  (s.access load store ea d).map fun p => (p.1, p.2.mem, p.2.draws)

/-- The state with WB's write made (50_pipeline.md R301). -/
def State.writtenBack (s : State) : State :=
  if s.cur.memwb.ctl.regWrite then s.writeDest s.cur.memwb.ins.rd s.cur.memwb.value else s

/-- What MEM makes of EX/MEM: the next MEM/WB, memory and the draw counter; none where it faults (R302, R303). -/
def State.memOut (s : State) : Option (MemWb × Memory × Nat) :=
  match s.cur.exmem.ins.instr with
  | .ok i =>
    (s.accessed (if s.cur.exmem.ctl.memRead then i.loadKind else none)
      (if s.cur.exmem.ctl.memWrite then i.storeKind else none) s.cur.exmem.aluResult s.storeValue).map fun p =>
        (⟨s.cur.exmem.ins, s.cur.exmem.pc, s.cur.exmem.id, s.cur.exmem.ctl, s.cur.exmem.aluResult, p.1⟩, p.2)
  | .error _ => none

/-- The result EX computes, from the record's format and the ControlUnit's signals (R304, R305). -/
def State.exValue (s : State) : Option Word :=
  exResult s.input.divOverflow s.cur.idex.ins (control s.cur.idex.ins) s.cur.idex.pc
    (s.operandInEx s.cur.idex.ins.rs1 s.cur.idex.a) (s.operandInEx s.cur.idex.ins.rs2 s.cur.idex.b)

/-- What EX makes of ID/EX: the next EX/MEM; none where it faults (R304 to R306). -/
def State.exOut (s : State) : Option ExMem :=
  s.exValue.map fun r => ⟨s.cur.idex.ins, s.cur.idex.pc, s.cur.idex.id, s.cur.idex.ctl, r,
    s.operandInEx s.cur.idex.ins.rs2 s.cur.idex.b⟩

/-! What they depend on -/

theorem State.accessed_congr {s t : State} (hinput : t.input = s.input) (hmem : t.mem = s.mem)
    (hdraws : t.draws = s.draws) (load : Option LoadKind) (store : Option StoreKind) (ea d : Word) :
    t.accessed load store ea d = s.accessed load store ea d := by
  have hafter (k : StoreKind) : (t.afterDraw k).draws = (s.afterDraw k).draws := by
    cases k <;> simp [State.afterDraw, hdraws]
  have hafter' (k : StoreKind) (m : Memory) : ((t.setMem m).afterDraw k).draws = ((s.setMem m).afterDraw k).draws := by
    cases k <;> simp [State.afterDraw, hdraws]
  cases load with
  | some k =>
    simp only [State.accessed, State.access, Option.map_map, State.load, hinput, hmem]
    split
    · simp [hmem, hdraws]
    · cases s.input.oobPolicy <;> simp [hmem, hdraws]
  | none =>
    cases store with
    | some k =>
      simp only [State.accessed, State.access, Option.map_map, State.store, State.bytesToStore, hinput, hmem,
        hdraws]
      split
      · simp [hafter']
      · cases s.input.oobPolicy <;> simp [hmem, hafter]
    | none => simp [State.accessed, State.access, hmem, hdraws]

theorem State.storeValue_congr {s t : State} (hinput : t.input = s.input) (hexmem : t.cur.exmem = s.cur.exmem)
    (hmemwb : t.cur.memwb = s.cur.memwb) : t.storeValue = s.storeValue := by
  simp only [State.storeValue, hinput, hexmem, hmemwb]

theorem State.writtenBack_congr {s t : State} (hregs : t.regs = s.regs) (hmemwb : t.cur.memwb = s.cur.memwb) :
    t.writtenBack.regs = s.writtenBack.regs := by
  unfold State.writtenBack
  rw [hmemwb]
  split
  · exact State.writeDest_regs_congr hregs _ _
  · exact hregs

theorem State.memOut_congr {s t : State} (hinput : t.input = s.input) (hmem : t.mem = s.mem)
    (hdraws : t.draws = s.draws) (hexmem : t.cur.exmem = s.cur.exmem) (hmemwb : t.cur.memwb = s.cur.memwb) :
    t.memOut = s.memOut := by
  simp only [State.memOut, hexmem, State.accessed_congr hinput hmem hdraws,
    State.storeValue_congr hinput hexmem hmemwb]

theorem State.exOut_congr {s t : State} (hinput : t.input = s.input) (hcur : t.cur = s.cur) :
    t.exOut = s.exOut := by
  simp only [State.exOut, State.exValue, State.operandInEx_congr hinput hcur, hinput, hcur]

/-! ## The stages of supported records -/

/-- MEM of a supported record gives its product, or faults where there is none (R302, R384). -/
theorem memStage_supported {s : State} (h : supported s.cur.exmem.ins = true) :
    (s.memOut = none ∧ memStage s = .fault (.outOfRange ⟨s.cycle, s.cur.exmem.pc, some s.cur.exmem.ins.raw⟩)) ∨
    ∃ t, memStage s = .next t ∧ s.memOut = some (t.nxt.memwb, t.mem, t.draws) := by
  obtain ⟨i, hi⟩ := (supported_iff _).1 h
  obtain ⟨w, hw, _, hload, hstore⟩ := exec_eq_perform i
  have hstage : memStage s = memoryAccess w ((s.record s.cur.exmem.id .MEM).setActivity .mem) := by
    rw [memStage, runIn_of_ok hi, hw]
    rfl
  have hout : s.memOut = (accessInMem w ((s.record s.cur.exmem.id .MEM).setActivity .mem)).map fun p =>
      (⟨s.cur.exmem.ins, s.cur.exmem.pc, s.cur.exmem.id, s.cur.exmem.ctl, s.cur.exmem.aluResult, p.1⟩,
        p.2.mem, p.2.draws) := by
    simp only [State.memOut, hi]
    rw [← State.accessed_congr (s := s) (t := (s.record s.cur.exmem.id .MEM).setActivity .mem)
      (by simp) (by simp) (by simp), ← State.storeValue_congr (s := s)
      (t := (s.record s.cur.exmem.id .MEM).setActivity .mem) (by simp) (by simp) (by simp)]
    simp [accessInMem, State.accessed, hload, hstore]
    rfl
  rw [hstage, hout, memoryAccess]
  cases haccess : accessInMem w ((s.record s.cur.exmem.id .MEM).setActivity .mem) with
  | none => exact .inl ⟨rfl, by simp⟩
  | some p =>
    refine .inr ⟨_, rfl, ?_⟩
    simp

/-- EX of a supported record gives its product, or faults where there is none (R304 to R306). -/
theorem exStage_supported {s : State} (h : supported s.cur.idex.ins = true) :
    (s.exOut = none ∧ exStage s = .fault (.divOverflow ⟨s.cycle, s.cur.idex.pc, some s.cur.idex.ins.raw⟩)) ∨
    ∃ t, exStage s = .next t ∧ s.exOut = some t.nxt.exmem := by
  obtain ⟨i, hi⟩ := (supported_iff _).1 h
  obtain ⟨w, hw, hrs1, hrs2, _, _, _, _, hresult⟩ := work_of_record hi
  have hstage : exStage s = execute w ((s.record s.cur.idex.id .EX).setActivity .ex) := by
    rw [exStage, runIn_of_ok hi, hw]
    rfl
  have hop (r : Option Reg) (v : Word) :
      ((s.record s.cur.idex.id .EX).setActivity .ex).operandInEx r v = s.operandInEx r v :=
    State.operandInEx_congr (by simp) (by simp) r v
  have hvalue : resultInEx w ((s.record s.cur.idex.id .EX).setActivity .ex) = s.exValue := by
    simp [resultInEx, State.exValue, hresult, hop, hrs1, hrs2]
  rw [hstage, execute, hvalue, State.exOut]
  cases hr : s.exValue with
  | none => exact .inl ⟨rfl, by simp⟩
  | some r =>
    refine .inr ⟨_, rfl, ?_⟩
    simp [hop, hrs2]

theorem runIn_supported {a : Activity} {ins : Record} {pc : Word} {s t : State} (h : runIn a ins pc s = .next t) :
    supported ins = true := by
  obtain ⟨i, hi, _⟩ := runIn_next h
  exact (supported_iff ins).2 ⟨i, hi⟩

theorem memStage_memOut {s t : State} (h : memStage s = .next t) :
    s.memOut = some (t.nxt.memwb, t.mem, t.draws) := by
  rcases memStage_supported (runIn_supported h) with ⟨_, hfault⟩ | ⟨u, hu, hout⟩
  · exact nomatch h.symm.trans hfault
  · rw [Host.Outcome.next.inj (h.symm.trans hu), hout]

theorem exStage_exOut {s t : State} (h : exStage s = .next t) : s.exOut = some t.nxt.exmem := by
  rcases exStage_supported (runIn_supported h) with ⟨_, hfault⟩ | ⟨u, hu, hout⟩
  · exact nomatch h.symm.trans hfault
  · rw [Host.Outcome.next.inj (h.symm.trans hu), hout]

/-! What they record (R360) -/

theorem wbStage_log {s t : State} (h : wbStage s = .next t) : t.log = logged s.log s.cur.memwb.id s.cycle .WB := by
  obtain ⟨i, _, rfl⟩ := wbStage_cases h
  split <;> simp

theorem memStage_log {s t : State} (h : memStage s = .next t) : t.log = logged s.log s.cur.exmem.id s.cycle .MEM := by
  obtain ⟨i, v, u, _, haccess, rfl⟩ := memStage_cases h
  rw [State.setMemwb_log, State.access_frame haccess]
  simp

theorem exStage_log {s t : State} (h : exStage s = .next t) : t.log = logged s.log s.cur.idex.id s.cycle .EX := by
  obtain ⟨i, w, r, _, _, _, rfl⟩ := exStage_cases h
  simp

/-! ## The back end of a cycle -/

/-- WB, MEM and EX, in the order of a cycle (R300). -/
def backStages (s : State) : Host.Outcome State Fault Refusal :=
  andThen (wbStage s) fun s1 => andThen (memStage s1) exStage

/-- The state `t` behind the back end of a cycle of `s`, before ID. -/
structure BackStages (s t : State) : Prop where
  supported_behind_id : supported s.cur.idex.ins = true ∧ supported s.cur.exmem.ins = true ∧
    supported s.cur.memwb.ins = true
  regs : t.regs = s.writtenBack.regs
  mem : s.memOut = some (t.nxt.memwb, t.mem, t.draws)
  ex : s.exOut = some t.nxt.exmem
  log : t.log = logged (logged (logged s.log s.cur.memwb.id s.cycle .WB) s.cur.exmem.id s.cycle .MEM)
    s.cur.idex.id s.cycle .EX
  frame : t = { t with
    input := s.input, cur := s.cur, pc := s.pc, cycle := s.cycle, mark := s.mark
    nxt := { s.nxt with exmem := t.nxt.exmem, memwb := t.nxt.memwb } }

/-! The back end moves no front end latch, and neither inputs, pc nor the counter. -/

section
variable {s t : State} (h : BackStages s t)
include h

theorem BackStages.cur : t.cur = s.cur := by rw [h.frame]

theorem BackStages.input : t.input = s.input := by rw [h.frame]

theorem BackStages.pc : t.pc = s.pc := by rw [h.frame]

theorem BackStages.cycle : t.cycle = s.cycle := by rw [h.frame]

theorem BackStages.hazard : hazard t.input.fwd t.cur t.cur.ifid.ins = hazard s.input.fwd s.cur s.cur.ifid.ins := by
  rw [h.cur, h.input]

end

theorem backStages_next {s t : State} (h : backStages s = .next t) : BackStages s t := by
  obtain ⟨s1, hwb, h⟩ := andThen_eq_next h
  obtain ⟨s2, hmem, hex⟩ := andThen_eq_next h
  have h1 := wbStage_frame hwb
  have h2 := memStage_frame hmem
  have h3 := exStage_frame hex
  have hinput1 : s1.input = s.input := wbStage_input hwb
  have hcur1 : s1.cur = s.cur := by rw [h1]
  have hcycle1 : s1.cycle = s.cycle := by rw [h1]
  have hinput2 : s2.input = s.input := (memStage_input hmem).trans hinput1
  have hcur2 : s2.cur = s.cur := by rw [h2, hcur1]
  have hcycle2 : s2.cycle = s.cycle := by rw [h2, hcycle1]
  refine ⟨⟨?_, ?_, runIn_supported hwb⟩, ?_, ?_, ?_, ?_, ?_⟩
  · rw [← hcur2]; exact runIn_supported hex
  · rw [← hcur1]; exact runIn_supported hmem
  · have hregs : t.regs = s1.regs := by rw [h3, h2]
    exact hregs.trans (wbStage_regs hwb)
  · rw [← State.memOut_congr hinput1 (by rw [h1]) (by rw [h1]) (by rw [hcur1]) (by rw [hcur1]),
      memStage_memOut hmem, h3]
  · rw [← State.exOut_congr hinput2 hcur2]; exact exStage_exOut hex
  · rw [exStage_log hex, memStage_log hmem, wbStage_log hwb, hcur2, hcur1, hcycle2, hcycle1]
  · rw [h3, h2, h1]

/-- The back end of supported records ends in MEM's fault, or in EX's, or completes, by whether MEM and EX have
products (R353). -/
theorem backStages_supported {s : State} (hwb : supported s.cur.memwb.ins = true)
    (hmem : supported s.cur.exmem.ins = true) (hex : supported s.cur.idex.ins = true) :
    (s.memOut = none ∧
      backStages s = .fault (.outOfRange ⟨s.cycle, s.cur.exmem.pc, some s.cur.exmem.ins.raw⟩)) ∨
    (s.memOut ≠ none ∧ s.exOut = none ∧
      backStages s = .fault (.divOverflow ⟨s.cycle, s.cur.idex.pc, some s.cur.idex.ins.raw⟩)) ∨
    (s.memOut ≠ none ∧ s.exOut ≠ none ∧ ∃ t, backStages s = .next t) := by
  obtain ⟨s1, h1⟩ := wbStage_isNext hwb
  have hcur1 : s1.cur = s.cur := by rw [wbStage_frame h1]
  have hcycle1 : s1.cycle = s.cycle := by rw [wbStage_frame h1]
  have hmemOut : s1.memOut = s.memOut :=
    State.memOut_congr (wbStage_input h1) (by rw [wbStage_frame h1]) (by rw [wbStage_frame h1]) (by rw [hcur1])
      (by rw [hcur1])
  have hrun1 : backStages s = andThen (memStage s1) exStage := by rw [backStages, h1, andThen_next]
  rcases memStage_supported (s := s1) (by rwa [hcur1]) with ⟨hnone, hfault⟩ | ⟨s2, h2, hout⟩
  · refine .inl ⟨hmemOut.symm.trans hnone, ?_⟩
    rw [hrun1, hfault, andThen_fault, hcur1, hcycle1]
  have hmemSome : s.memOut ≠ none := by rw [← hmemOut, hout]; exact Option.some_ne_none _
  have hcur2 : s2.cur = s.cur := by rw [memStage_frame h2, hcur1]
  have hcycle2 : s2.cycle = s.cycle := by rw [memStage_frame h2, hcycle1]
  have hexOut : s2.exOut = s.exOut := State.exOut_congr ((memStage_input h2).trans (wbStage_input h1)) hcur2
  have hrun2 : backStages s = exStage s2 := by rw [hrun1, h2, andThen_next]
  rcases exStage_supported (s := s2) (by rwa [hcur2]) with ⟨hnone, hfault⟩ | ⟨s3, h3, hout⟩
  · refine .inr (.inl ⟨hmemSome, hexOut.symm.trans hnone, ?_⟩)
    rw [hrun2, hfault, hcur2, hcycle2]
  · exact .inr (.inr ⟨hmemSome, by rw [← hexOut, hout]; exact Option.some_ne_none _, s3, hrun2.trans h3⟩)

theorem oneCycle_eq_backStages (s : State) :
    oneCycle s = andThen (backStages s) fun s3 => andThen (idStage s3) fun s4 =>
      andThen (ifStage s4) fun s5 => .next (commit s5) := by
  unfold oneCycle backStages
  cases wbStage s with
  | fault r => rfl
  | refused r => rfl
  | next s1 =>
    rw [andThen_next, andThen_next]
    cases memStage s1 <;> rfl

theorem step_of_unmarked {s : State} (h : s.mark = none) : step s = oneCycle s := by
  simp only [step, h]

/-- A step is the back end, ID, IF and the commit, of an unmarked state. -/
theorem step_stages {s t : State} (h : step s = .next t) :
    ∃ s3 s4 s5, BackStages s s3 ∧ idStage s3 = .next s4 ∧ ifStage s4 = .next s5 ∧ t = commit s5 := by
  have hcycle := (step_cases h).2
  rw [oneCycle_eq_backStages] at hcycle
  obtain ⟨s3, hback, h⟩ := andThen_eq_next hcycle
  obtain ⟨s4, hid, h⟩ := andThen_eq_next h
  obtain ⟨s5, hif, h⟩ := andThen_eq_next h
  exact ⟨s3, s4, s5, backStages_next hback, hid, hif, (Host.Outcome.next.inj h).symm⟩

/-- The state `t` after a cycle of `s`, as its back end has left it. -/
structure BackEnd (s t : State) : Prop where
  supported_behind_id : supported s.cur.idex.ins = true ∧ supported s.cur.exmem.ins = true ∧
    supported s.cur.memwb.ins = true
  input : t.input = s.input
  regs : t.regs = s.writtenBack.regs
  mem : s.memOut = some (t.cur.memwb, t.mem, t.draws)
  ex : s.exOut = some t.cur.exmem

/-- ID and IF leave what the back end has made. -/
theorem BackStages.backEnd {s s3 s4 t : State} (h : BackStages s s3) (hid : idStage s3 = .next s4)
    (ht : t = { t with
      input := s4.input, regs := s4.regs, mem := s4.mem, draws := s4.draws
      cur := { t.cur with exmem := s4.nxt.exmem, memwb := s4.nxt.memwb } }) : BackEnd s t := by
  have h4 := idStage_frame hid
  refine ⟨h.supported_behind_id, ?_, ?_, ?_, ?_⟩
  · rw [ht, h4, h.frame]
  · rw [ht, h4]; exact h.regs
  · rw [ht, h4]; exact h.mem
  · rw [ht, h4]; exact h.ex

theorem step_backEnd {s t : State} (h : step s = .next t) : BackEnd s t := by
  obtain ⟨s3, s4, s5, hback, hid, hif, rfl⟩ := step_stages h
  refine hback.backEnd hid ?_
  rw [ifStage_frame hif]
  rfl

theorem State.exOut_eq_some {s : State} {x : ExMem} (h : s.exOut = some x) :
    s.exValue = some x.aluResult ∧ x = ⟨s.cur.idex.ins, s.cur.idex.pc, s.cur.idex.id, s.cur.idex.ctl,
      x.aluResult, s.operandInEx s.cur.idex.ins.rs2 s.cur.idex.b⟩ := by
  obtain ⟨r, hr, rfl⟩ := Option.map_eq_some_iff.1 h
  exact ⟨hr, rfl⟩

/-- A latch behind ID carries the ControlUnit's signals of its record (10_state.md R48). -/
theorem Inv.control_idex {s : State} (h : Inv s) : s.cur.idex.ctl = control s.cur.idex.ins := by
  have hidex := h.idex
  simp only [issued, Bool.and_eq_true, beq_iff_eq] at hidex
  exact hidex.1.2

/-- Settles O37: EX/MEM after a step is EX's product, and the signals ID/EX holds are its record's. -/
theorem cycleExecute : Obligations.CycleExecute := by
  unfold Obligations.CycleExecute
  rintro s t a b hinv h rfl rfl
  obtain ⟨hvalue, hexmem⟩ := State.exOut_eq_some (step_backEnd h).ex
  rw [hinv.control_idex]
  refine ⟨hvalue, ?_⟩
  rw [hexmem]
  exact ⟨rfl, rfl, rfl, rfl, hinv.control_idex⟩

end Sys2Proof.Machine
end

section
/-! O38, O39, O42, O47 and O48: the front end of a cycle, ID and IF, behind its back end, and what the whole cycle
records (50_pipeline.md R310 to R317, R340 to R343, R360, R361). -/

namespace Sys2Proof

/-! ## Records that redirect (R316, R317) -/

/-- Only the zero word decodes as NOP (30_encoding.md R113). -/
theorem payloadOf_ne_nop (w : Word) : payloadOf w ≠ .nop := by
  unfold payloadOf
  split_ifs <;> exact nofun

namespace Machine

/-- A decoded record redirects, whatever its operands, exactly where its opcode says so. -/
theorem redirectOf_isSome_decodeRecord (w ipc a b : Word) :
    (redirectOf (decodeRecord w) ipc a b).isSome = redirects (decodeRecord w) := by
  by_cases hw : w = 0
  · subst hw; rfl
  · rw [decodeRecord_of_ne_zero hw]
    unfold payloadOf
    split_ifs with h33 hI h23 h63 hU h6F
    · simp [redirectOf, redirects, h33]
    · by_cases h67 : opcodeOf w = 0x67
      · simp [redirectOf, redirects, h67]
      · rcases hI with h | h | h
        · simp [redirectOf, redirects, h]
        · simp [redirectOf, redirects, h]
        · exact absurd h h67
    · simp [redirectOf, redirects, h23]
    · simp [redirectOf, redirects, h63]
    · rcases hU with h | h <;> simp [redirectOf, redirects, h]
    · simp [redirectOf, redirects, h6F]
    · simp only [not_or] at hI
      simpa [redirectOf, redirects] using ⟨⟨h63, h6F⟩, hI.2.2⟩

theorem redirectOf_isSome {ins : Record} (h : decoded ins = true) (ipc a b : Word) :
    (redirectOf ins ipc a b).isSome = redirects ins := by
  rw [decoded, beq_iff_eq] at h
  rw [h]
  exact redirectOf_isSome_decodeRecord _ _ _ _

/-- A record that stands for an instruction but has no redirecting opcode does not redirect. -/
theorem redirectOf_eq_none {ins : Record} (hs : supported ins = true) (h : redirects ins = false) (ipc a b : Word) :
    redirectOf ins ipc a b = none := by
  obtain ⟨i, hi⟩ := (supported_iff ins).1 hs
  obtain ⟨raw, op, payload⟩ := ins
  simp only [redirects, Bool.or_eq_false_iff, beq_eq_false_iff_ne] at h
  obtain ⟨⟨h63, h6F⟩, h67⟩ := h
  cases payload with
  | r | s | u | nop | unknown => rfl
  | i => exact if_neg h67
  | b => exact nomatch (if_neg h63).symm.trans hi
  | j => exact nomatch (if_neg h6F).symm.trans hi

theorem Inv.decoded_ifid {s : State} (h : Inv s) : decoded s.cur.ifid.ins = true := by
  have hifid := h.ifid
  rw [Bool.and_eq_true] at hifid
  exact hifid.1

theorem fetches_iff (s : State) : fetches s = true ↔
    hazard s.input.fwd s.cur s.cur.ifid.ins = false ∧ redirects s.cur.ifid.ins = false := by
  simp [fetches]

/-! ## ID and IF -/

theorem idStage_isNext {s : State} (hz : hazard s.input.fwd s.cur s.cur.ifid.ins = false)
    (h : supported s.cur.ifid.ins = true) : ∃ t, idStage s = .next t := by
  obtain ⟨i, hi⟩ := (supported_iff _).1 h
  obtain ⟨w, hw, _⟩ := exec_eq_perform i
  rw [idStage, hz, runIn_of_ok hi, hw]
  exact ⟨_, accept_next w _⟩

/-- What ID passes on unstalled stands for an instruction (R313). -/
theorem idStage_supported {s t : State} (h : idStage s = .next t)
    (hz : hazard s.input.fwd s.cur s.cur.ifid.ins = false) : supported s.cur.ifid.ins = true := by
  rw [idStage, hz] at h
  exact runIn_supported h

theorem idStage_log {s t : State} (h : idStage s = .next t) : t.log = logged s.log s.cur.ifid.id s.cycle
    (if hazard s.input.fwd s.cur s.cur.ifid.ins then .dash else .ID) := by
  rcases idStage_cases h with ⟨hz, rfl⟩ | ⟨hz, i, w, _, _, rfl⟩
  · simp [stallInId, hz]
  · simp [hz]

theorem ifStage_of_redirect {s : State} (h : s.redirect.isSome = true) : ifStage s = .next (holdOrSquash s) :=
  if_pos (.inr h)

theorem ifStage_of_no_decision {s : State} (hs : s.stalled = false) (hr : s.redirect = none) :
    ifStage s = fetch s := by
  simp [ifStage, hs, hr]

/-- What ID reads of a source behind WB's write is the register after it, through the mux where FWD = true (R314). -/
theorem operandInId_behind_wb (s t : State) (r : Reg) : { s with regs := t.regs }.operandInId (some r) =
    if s.input.fwd then forward s.cur r (t.readReg r) else t.readReg r := rfl

/-! ## What a step leaves of the front end -/

theorem step_supported_ifid {s t : State} (h : step s = .next t)
    (hz : hazard s.input.fwd s.cur s.cur.ifid.ins = false) : supported s.cur.ifid.ins = true := by
  obtain ⟨s3, s4, s5, hback, hid, _, _⟩ := step_stages h
  rw [← hback.cur]
  exact idStage_supported hid (hback.hazard.trans hz)

/-- A stall puts a bubble into ID/EX and holds IF/ID (R312, R343). -/
theorem step_stalls {s t : State} (h : step s = .next t) (hz : hazard s.input.fwd s.cur s.cur.ifid.ins = true) :
    t.cur.idex = IdEx.empty ∧ t.cur.ifid = s.cur.ifid := by
  obtain ⟨s3, s4, s5, hback, hid, hif, rfl⟩ := step_stages h
  obtain rfl := Host.Outcome.next.inj ((idStage_of_hazard (hback.hazard.trans hz)).symm.trans hid)
  obtain rfl := Host.Outcome.next.inj ((ifStage_of_stalled (stallInId_stalled s3)).symm.trans hif)
  simp [holdOrSquash, hback.cur]

/-- The log after a step: the names of its stages, IF's only where it fetches (R360). -/
theorem step_log {s t : State} (h : step s = .next t) :
    t.log = logged (logged (logged (logged (logged s.log s.cur.memwb.id s.cycle .WB) s.cur.exmem.id s.cycle .MEM)
      s.cur.idex.id s.cycle .EX) s.cur.ifid.id s.cycle
        (if hazard s.input.fwd s.cur s.cur.ifid.ins then .dash else .ID))
      (if hazard s.input.fwd s.cur s.cur.ifid.ins ∨
          (redirectOf s.cur.ifid.ins s.cur.ifid.pc t.cur.idex.a t.cur.idex.b).isSome
        then none else t.cur.ifid.id) s.cycle .IF := by
  obtain ⟨s3, s4, s5, hback, hid, hif, rfl⟩ := step_stages h
  have hcycle4 : s4.cycle = s.cycle := by rw [idStage_frame hid, hback.cycle]
  have hlog4 := idStage_log hid
  rw [hback.log, hback.cur, hback.input, hback.cycle] at hlog4
  rw [← hlog4, commit_log]
  by_cases hz : hazard s.input.fwd s.cur s.cur.ifid.ins = true
  · obtain ⟨hstalled, _⟩ := idStage_stalls hid (hback.hazard.trans hz)
    obtain rfl := Host.Outcome.next.inj ((ifStage_of_stalled hstalled).symm.trans hif)
    simp [hz, logged]
  · rw [Bool.not_eq_true] at hz
    obtain ⟨_, hstalled, hredirect⟩ := idStage_accepts hid (hback.hazard.trans hz)
    have hidex : (commit s5).cur.idex = s4.nxt.idex := by rw [commit_cur, ifStage_frame hif]
    rw [hback.cur] at hredirect
    rw [hidex, ← hredirect]
    rcases ifStage_cases hif with ⟨hskip, rfl⟩ | ⟨_, hnone, _, rfl⟩
    · have hsome : s4.redirect.isSome = true := hskip.resolve_left (by simp [hstalled])
      simp [hsome, logged]
    · simp [hz, hnone, hcycle4]

/-! ## The obligations -/

/-- Settles O38: ID/EX after a step is the accepted record, and the log's last names do not remove ID. -/
theorem cycleDecode : Obligations.CycleDecode := by
  unfold Obligations.CycleDecode
  intro s t h hz
  obtain ⟨hidex, _⟩ := step_accepts h hz
  refine ⟨by rw [hidex], by rw [hidex], by rw [hidex], by rw [hidex], ?_, ?_, fun id hid => ?_⟩
  · rw [hidex]
    cases s.cur.ifid.ins.rs1 <;> rfl
  · rw [hidex]
    cases s.cur.ifid.ins.rs2 <;> rfl
  · rw [step_log h, mem_logged_real (by decide), mem_logged_real (by decide)]
    exact .inr (.inl ⟨hid, by simp [hz]⟩)

/-- Settles O39: behind a back end of supported records a stalled cycle completes, and of the names of its cell
only "-" is left. -/
theorem stalledCycle : Obligations.StalledCycle := by
  unfold Obligations.StalledCycle
  refine fun s hinv hmark hz => ⟨fun r => ?_, fun t h => ?_⟩
  · obtain ⟨hidex, hexmem, hmemwb⟩ := hinv.supported_behind_id
    rw [step_of_unmarked hmark, oneCycle_eq_backStages]
    rcases backStages_supported hmemwb hexmem hidex with ⟨_, hb⟩ | ⟨_, _, hb⟩ | ⟨_, _, s3, hb⟩
    · rw [hb]; exact nofun
    · rw [hb]; exact nofun
    · rw [hb, andThen_next, idStage_of_hazard ((backStages_next hb).hazard.trans hz), andThen_next,
        ifStage_of_stalled (stallInId_stalled s3)]
      exact nofun
  · obtain ⟨hidex, hifid⟩ := step_stalls h hz
    refine ⟨hidex, hifid, step_stalls_pc h hz, fun id hid hmemwb hexmem hex => ?_⟩
    have hempty : logCell (logged (logged (logged s.log s.cur.memwb.id s.cycle .WB) s.cur.exmem.id s.cycle .MEM)
        s.cur.idex.id s.cycle .EX) id s.cycle = [] :=
      logCell_backEnd_eq_nil.2 ⟨hmemwb, hexmem, hex, hinv.logCell_eq_nil id⟩
    rw [step_log h, hz, hid]
    simpa [logged] using logCell_logAdd_dash_of_empty hempty

/-- Settles O42: where IF fetches, IF/ID is the decoded word at pc, and only the zero word decodes as NOP. -/
theorem fetchAtPc : Obligations.FetchAtPc := by
  unfold Obligations.FetchAtPc
  intro s t h hf haligned
  obtain ⟨hz, hr⟩ := (fetches_iff s).1 hf
  have hifid : t.cur.ifid = fetched s := by
    rw [step_ifid h hz, redirectOf_eq_none (step_supported_ifid h hz) hr]
    rfl
  rw [hifid, fetched, wordAt_aligned s haligned]
  refine ⟨rfl, fun hpast => ?_, fun w hw => ?_⟩
  · rw [List.getElem?_eq_none hpast]
    exact ⟨rfl, by simp [fetchId, decodeFetched, nopRecord]⟩
  · rw [hw]
    refine ⟨rfl, fun h0 => ?_, fun h0 => ?_⟩
    · simp [h0, fetchId, decodeFetched, decodeRecord, nopRecord]
    · simp [fetchId, decodeFetched, decodeRecord_of_ne_zero h0, payloadOf_ne_nop, (aligned_iff s.pc).2 haligned]

/-- Settles O47: the cells of the current cycle start empty, and the names of the step are added in stage order. -/
theorem cycleRecordsStages : Obligations.CycleRecordsStages := by
  unfold Obligations.CycleRecordsStages
  intro s t id hinv h
  have hempty := hinv.logCell_eq_nil id
  have hredirect := redirectOf_isSome hinv.decoded_ifid s.cur.ifid.pc t.cur.idex.a t.cur.idex.b
  rw [step_log h, hredirect]
  cases hz : hazard s.input.fwd s.cur s.cur.ifid.ins with
  | true =>
    have hf : fetches s = false := by simp [fetches, hz]
    simp [mem_logged_real, dash_mem_logged_real, dash_mem_logged_dash, logCell_backEnd_eq_nil, hempty, hf]
  | false =>
    have hf : fetches s = !redirects s.cur.ifid.ins := by simp [fetches, hz]
    cases hr : redirects s.cur.ifid.ins <;>
      simp [mem_logged_real, dash_mem_logged_real, hempty, hf, hr]

/-- Settles O48: adding a name keeps "-" alone, and a step adds names. -/
theorem dashStandsAlone : Obligations.DashStandsAlone := by
  unfold Obligations.DashStandsAlone
  refine ⟨fun log id cycle => logAdd_dash_of_nonempty, fun log id cycle n hn => ⟨?_, ?_, fun m hm hd => ?_⟩,
    fun s t hs h => ?_⟩
  · exact (mem_logCell_logAdd_iff hn).2 (.inl rfl)
  · rw [mem_logCell_logAdd_iff hn]
    rintro (hd | ⟨_, hd⟩)
    · exact hn hd.symm
    · exact hd rfl
  · exact (mem_logCell_logAdd_iff hn).2 (.inr ⟨hm, hd⟩)
  · rw [step_log h]
    exact dashAlone_logged (dashAlone_logged (dashAlone_logged (dashAlone_logged (dashAlone_logged hs
      _ _ _) _ _ _) _ _ _) _ _ _) _ _ _

end Machine

end Sys2Proof
end

section
/-! O43: which outcome a cycle has (50_pipeline.md R353, 60_exceptions.md R383). MEM and EX have no product exactly
where they hold the access or the division their policies make a fault; behind them ID refuses or not, and IF
faults or not. -/

namespace Sys2Proof.Machine

/-! ## MEM and EX without a product -/

/-- An instruction's data access fails exactly out of range under OOB_POLICY = fault (60_exceptions.md R384). -/
theorem State.accessed_eq_none_iff (s : State) (i : Instr) (ea d : Word) :
    s.accessed i.loadKind i.storeKind ea d = none ↔
      s.input.oobPolicy = .fault ∧ ∃ n, accessSize i = some n ∧ Config.memSize < ea.toNat + n := by
  cases hload : i.loadKind with
  | some k =>
    have hsize : accessSize i = some k.size := by simp only [accessSize, hload]
    by_cases hin : ea.toNat + k.size ≤ Config.memSize
    · simp [State.accessed, State.access, State.load_in_range hin, hsize, hin]
    · cases hoob : s.input.oobPolicy <;>
        simp [State.accessed, State.access, State.load, inRange, hin, hoob, hsize, Nat.lt_of_not_le hin]
  | none =>
    cases hstore : i.storeKind with
    | none => simp [State.accessed, State.access, accessSize, hload, hstore]
    | some k =>
      have hsize : accessSize i = some k.size := by simp [accessSize, hload, hstore]
      by_cases hin : ea.toNat + k.size ≤ Config.memSize
      · simp [State.accessed, State.access, State.store, inRange, hsize, hin]
      · cases hoob : s.input.oobPolicy <;>
          simp [State.accessed, State.access, State.store, inRange, hin, hoob, hsize, Nat.lt_of_not_le hin]

/-- Under the ControlUnit's signals MEM makes the instruction's own access. -/
theorem State.memOut_of_instr {s : State} {i : Instr} (hi : s.cur.exmem.ins.instr = .ok i)
    (hctl : s.cur.exmem.ctl = control s.cur.exmem.ins) :
    s.memOut = (s.accessed i.loadKind i.storeKind s.cur.exmem.aluResult s.storeValue).map fun p =>
      (⟨s.cur.exmem.ins, s.cur.exmem.pc, s.cur.exmem.id, s.cur.exmem.ctl, s.cur.exmem.aluResult, p.1⟩, p.2) := by
  have hload : (if s.cur.exmem.ctl.memRead then i.loadKind else none) = i.loadKind := by
    rw [hctl, control_of_instr hi, signalTable_memRead]
    cases i.loadKind <;> rfl
  have hstore : (if s.cur.exmem.ctl.memWrite then i.storeKind else none) = i.storeKind := by
    rw [hctl, control_of_instr hi, signalTable_memWrite]
    cases i.storeKind <;> rfl
  simp only [State.memOut, hi, hload, hstore]

theorem Inv.control_exmem {s : State} (h : Inv s) : s.cur.exmem.ctl = control s.cur.exmem.ins := by
  have hexmem := h.exmem
  simp only [issued, Bool.and_eq_true, beq_iff_eq] at hexmem
  exact hexmem.1.2

theorem Inv.memOut_eq_none_iff {s : State} (h : Inv s) : s.memOut = none ↔ faultsInMem s := by
  obtain ⟨i, hi⟩ := (supported_iff _).1 h.supported_behind_id.2.1
  rw [State.memOut_of_instr hi h.control_exmem, Option.map_eq_none_iff, State.accessed_eq_none_iff]
  refine and_congr_right fun _ => ⟨fun ⟨n, hn⟩ => ⟨i, n, hi, hn⟩, fun ⟨j, n, hj, hn⟩ => ⟨n, ?_⟩⟩
  rwa [Except.ok.inj (hi.symm.trans hj)]

/-- The record of a DIV has its sources, and EX divides for it (41_register_arith.md R186). -/
theorem exResult_div {ins : Record} {rd rs1 rs2 : Reg} (h : ins.instr = .ok (.div rd rs1 rs2)) :
    ins.rs1 = some rs1 ∧ ins.rs2 = some rs2 ∧
      ∀ p ipc a b, exResult p ins (control ins) ipc a b = divide p a b := by
  obtain ⟨raw, op, payload⟩ := ins
  cases payload with
  | r =>
    simp only [Record.instr, rTypeInstr] at h
    split_ifs at h <;> cases h
    exact ⟨rfl, rfl, fun _ _ _ _ => by simp_all [exResult, onAlu, control, rTypeAluOp, alu]⟩
  | i =>
    simp only [Record.instr, immediateInstr, loadInstr] at h
    split_ifs at h <;> cases h
  | s =>
    simp only [Record.instr, storeInstr] at h
    split_ifs at h <;> cases h
  | b =>
    simp only [Record.instr, branchInstr] at h
    split_ifs at h <;> cases h
  | u =>
    simp only [Record.instr] at h
    split_ifs at h <;> cases h
  | j =>
    simp only [Record.instr] at h
    split_ifs at h
    cases h
  | nop => cases h
  | unknown => cases h

theorem divide_open_pair : divide .fault 0x80000000 0xFFFFFFFF = none := rfl

theorem exOut_eq_none_iff {s : State} (h : supported s.cur.idex.ins = true) : s.exOut = none ↔ faultsInEx s := by
  constructor
  · intro hnone
    by_contra hf
    obtain ⟨t, ht⟩ := exStage_isNext h hf
    exact nomatch hnone.symm.trans (exStage_exOut ht)
  · rintro ⟨hp, rd, rs1, rs2, hdiv, ha, hb⟩
    obtain ⟨hrs1, hrs2, hresult⟩ := exResult_div hdiv
    rw [State.exOut, State.exValue, hresult, hrs1, hrs2, ha, hb, hp, divide_open_pair]
    rfl

/-! ## The cycle behind its back end -/

/-- IF of an accepted instruction that does not redirect is a fetch at pc; it faults or not (R342). -/
theorem fetch_eq (s : State) : fetch s =
    if s.pc.toNat % 4 ≠ 0 ∧ s.input.misalignedFetch = .fault
    then .fault (.misalignedFetch ⟨s.cycle, s.pc, none⟩)
    else .next ((s.setIfid (fetched s)).record (fetched s).id .IF) := by
  rw [fetch]
  simp only [fetchFaults_iff]

/-- The outcome of ID, IF and the commit, on the state `s3` behind the back end of a cycle of `s`. -/
theorem frontEnd_outcomes {s s3 : State} (hinv : Inv s) (hback : BackStages s s3) :
    (refusedInId s → idStage s3 = .refused (.unsupported ⟨s.cycle, s.cur.ifid.pc, some s.cur.ifid.ins.raw⟩)) ∧
    (¬refusedInId s → ∃ s4, idStage s3 = .next s4 ∧
      (faultsInIf s → ifStage s4 = .fault (.misalignedFetch ⟨s.cycle, s.pc, none⟩)) ∧
      (¬faultsInIf s → ∃ s5, ifStage s4 = .next s5)) := by
  rw [faultsInIf, fetches_iff, refusedInId, ← hback.cycle, ← hback.pc, ← hback.input, ← hback.cur]
  have hdecoded : decoded s3.cur.ifid.ins = true := by rw [hback.cur]; exact hinv.decoded_ifid
  constructor
  · rintro ⟨hz, hs⟩
    cases hi : s3.cur.ifid.ins.instr with
    | ok i => exact nomatch hs.symm.trans ((supported_iff _).2 ⟨i, hi⟩)
    | error u => exact idStage_refuses hz hi
  · intro hr
    cases hz : hazard s3.input.fwd s3.cur s3.cur.ifid.ins with
    | true =>
      refine ⟨_, idStage_of_hazard hz, ?_, fun _ => ⟨_, ifStage_of_stalled (stallInId_stalled s3)⟩⟩
      rintro ⟨_, ⟨hno, _⟩, _⟩
      cases hno
    | false =>
      have hs : supported s3.cur.ifid.ins = true := by
        rw [← Bool.not_eq_false]
        exact fun hs => hr ⟨hz, hs⟩
      obtain ⟨s4, hid⟩ := idStage_isNext hz hs
      obtain ⟨_, hstalled, hredirect⟩ := idStage_accepts hid hz
      have hsome := redirectOf_isSome hdecoded s3.cur.ifid.pc s4.nxt.idex.a s4.nxt.idex.b
      rw [← hredirect] at hsome
      refine ⟨s4, hid, ?_⟩
      cases hred : redirects s3.cur.ifid.ins with
      | true =>
        refine ⟨?_, fun _ => ⟨_, ifStage_of_redirect (hsome.trans hred)⟩⟩
        rintro ⟨_, ⟨_, hno⟩, _⟩
        cases hno
      | false =>
        have hnone : s4.redirect = none := by simpa using hsome.trans hred
        have hfacts : s4.pc = s3.pc ∧ s4.input = s3.input ∧ s4.cycle = s3.cycle := by
          rw [idStage_frame hid]
          exact ⟨rfl, rfl, rfl⟩
        obtain ⟨hpc4, hinput4, hcycle4⟩ := hfacts
        rw [ifStage_of_no_decision hstalled hnone, fetch_eq, hpc4, hinput4, hcycle4]
        constructor
        · rintro ⟨hpolicy, _, hpc⟩
          exact if_pos ⟨hpc, hpolicy⟩
        · exact fun hf => ⟨_, if_neg fun hp => hf ⟨hp.2, ⟨rfl, rfl⟩, hp.1⟩⟩

/-- Settles O43: the back end's outcome comes first, then ID's, then IF's, and a cycle that ends in one only sets
the mark. -/
theorem cycleOutcomesInOrder : Obligations.CycleOutcomesInOrder := by
  unfold Obligations.CycleOutcomesInOrder
  intro s hinv hmark
  obtain ⟨hidex, hexmem, hmemwb⟩ := hinv.supported_behind_id
  rw [← hinv.memOut_eq_none_iff, ← exOut_eq_none_iff hidex]
  have hrun := (step_of_unmarked hmark).trans (oneCycle_eq_backStages s)
  have hlast : (∀ t, step s = .next t → runCycle s = t) ∧
      (∀ r, step s = .fault r → runCycle s = { s with mark := some (.fault r) }) ∧
      (∀ r, step s = .refused r → runCycle s = { s with mark := some (.refused r) }) :=
    ⟨fun _ => runCycle_of_next, fun _ => runCycle_of_fault, fun _ => runCycle_of_refused⟩
  rcases backStages_supported hmemwb hexmem hidex with ⟨hm, hb⟩ | ⟨hm, he, hb⟩ | ⟨hm, he, s3, hb⟩
  · rw [hb, andThen_fault] at hrun
    exact ⟨fun _ => hrun, fun h => absurd hm h, fun h => absurd hm h, fun h => absurd hm h, fun h => absurd hm h,
      hlast⟩
  · rw [hb, andThen_fault] at hrun
    exact ⟨fun h => absurd h hm, fun _ _ => hrun, fun _ h => absurd he h, fun _ h => absurd he h,
      fun _ h => absurd he h, hlast⟩
  · obtain ⟨hrefused, hpasses⟩ := frontEnd_outcomes hinv (backStages_next hb)
    rw [hb, andThen_next] at hrun
    refine ⟨fun h => absurd h hm, fun _ h => absurd h he, fun _ _ hr => ?_, fun _ _ hr hf => ?_,
      fun _ _ hr hf => ?_, hlast⟩
    · rw [hrun, hrefused hr, andThen_refused]
    · obtain ⟨s4, hid, hfault, _⟩ := hpasses hr
      rw [hrun, hid, andThen_next, hfault hf, andThen_fault]
    · obtain ⟨s4, hid, _, hnext⟩ := hpasses hr
      obtain ⟨s5, hif⟩ := hnext hf
      exact ⟨commit s5, by rw [hrun, hid, andThen_next, hif, andThen_next]⟩

end Sys2Proof.Machine
end

section
/-! Draining the pipeline (50_pipeline.md R338): what one drain cycle does, bubbles, how many cycles empty the
pipeline, and the architectural state a pipeline settles in. -/

namespace Sys2Proof.Machine

/-! ## One drain cycle -/

theorem drainCycle_eq_backStages (s : State) :
    drainCycle s = andThen (backStages s) fun s3 => andThen (idStage s3) fun s4 =>
      .next ((commit (holdOrSquash s4)).setPc (s4.redirect.getD s4.pc)) := by
  unfold drainCycle backStages
  cases wbStage s with
  | fault r => rfl
  | refused r => rfl
  | next s1 =>
    rw [andThen_next, andThen_next]
    cases memStage s1 <;> rfl

theorem drainCycle_stages {s t : State} (h : drainCycle s = .next t) :
    ∃ s3 s4, BackStages s s3 ∧ idStage s3 = .next s4 ∧
      t = (commit (holdOrSquash s4)).setPc (s4.redirect.getD s4.pc) := by
  rw [drainCycle_eq_backStages] at h
  obtain ⟨s3, hback, h⟩ := andThen_eq_next h
  obtain ⟨s4, hid, h⟩ := andThen_eq_next h
  exact ⟨s3, s4, backStages_next hback, hid, (Host.Outcome.next.inj h).symm⟩

/-- A drain cycle completes where its back end has its products and ID stalls or has an instruction. -/
theorem drainCycle_isNext {s : State} (hwb : supported s.cur.memwb.ins = true) (hmem : supported s.cur.exmem.ins = true)
    (hex : supported s.cur.idex.ins = true) (hmemOut : s.memOut ≠ none) (hexOut : s.exOut ≠ none)
    (hid : supported s.cur.ifid.ins = true) : ∃ t, drainCycle s = .next t := by
  rcases backStages_supported hwb hmem hex with ⟨hnone, _⟩ | ⟨_, hnone, _⟩ | ⟨_, _, s3, hb⟩
  · exact absurd hnone hmemOut
  · exact absurd hnone hexOut
  rw [drainCycle_eq_backStages, hb, andThen_next]
  cases hz : hazard s3.input.fwd s3.cur s3.cur.ifid.ins with
  | true => rw [idStage_of_hazard hz]; exact ⟨_, rfl⟩
  | false =>
    obtain ⟨s4, h4⟩ := idStage_isNext hz (by rwa [(backStages_next hb).cur])
    rw [h4]
    exact ⟨_, rfl⟩

theorem drainCycle_backEnd {s t : State} (h : drainCycle s = .next t) : BackEnd s t := by
  obtain ⟨s3, s4, hback, hid, rfl⟩ := drainCycle_stages h
  refine hback.backEnd hid ?_
  unfold holdOrSquash
  split <;> rfl

/-- A stall in a drain cycle: a bubble, and the front end held (R312, R343). -/
theorem drainCycle_stalls {s t : State} (h : drainCycle s = .next t)
    (hz : hazard s.input.fwd s.cur s.cur.ifid.ins = true) :
    t.cur.idex = IdEx.empty ∧ t.cur.ifid = s.cur.ifid ∧ t.pc = s.pc := by
  obtain ⟨s3, s4, hback, hid, rfl⟩ := drainCycle_stages h
  obtain rfl := Host.Outcome.next.inj ((idStage_of_hazard (hback.hazard.trans hz)).symm.trans hid)
  simp [holdOrSquash, hback.cur, hback.pc]

/-- An accepted instruction in a drain cycle: on into ID/EX, nothing behind it, and pc moves only by its
redirect. -/
theorem drainCycle_accepts {s t : State} (h : drainCycle s = .next t)
    (hz : hazard s.input.fwd s.cur s.cur.ifid.ins = false) :
    t.cur.idex = ⟨s.cur.ifid.ins, s.cur.ifid.pc, s.cur.ifid.id, control s.cur.ifid.ins,
      { s with regs := t.regs }.operandInId s.cur.ifid.ins.rs1,
      { s with regs := t.regs }.operandInId s.cur.ifid.ins.rs2⟩ ∧
    t.cur.ifid = IfId.empty ∧
    t.pc = (redirectOf s.cur.ifid.ins s.cur.ifid.pc t.cur.idex.a t.cur.idex.b).getD s.pc ∧
    supported s.cur.ifid.ins = true := by
  obtain ⟨s3, s4, hback, hid, rfl⟩ := drainCycle_stages h
  have hpc : s4.pc = s.pc := by rw [idStage_frame hid, hback.pc]
  have hregs : s4.regs = s3.regs := by rw [idStage_frame hid]
  have hz3 := hback.hazard.trans hz
  obtain ⟨hidex, hstalled, hredirect⟩ := idStage_accepts hid hz3
  have hop (r : Option Reg) : s3.operandInId r = { s with regs := s4.regs }.operandInId r :=
    State.operandInId_congr (s := { s with regs := s4.regs }) hback.input hback.cur hregs.symm r
  rw [hop, hop, hback.cur] at hidex
  rw [hback.cur] at hredirect
  have hsup := idStage_supported hid hz3
  rw [hback.cur] at hsup
  refine ⟨?_, ?_, ?_, hsup⟩
  · simpa [holdOrSquash, hstalled] using hidex
  · simp [holdOrSquash, hstalled]
  · simp [holdOrSquash, hstalled, hredirect, hpc]

/-! ## Bubbles (R292, R293) -/

theorem hazard_of_ifid_empty {s : State} (h : s.cur.ifid = IfId.empty) :
    hazard s.input.fwd s.cur s.cur.ifid.ins = false := by
  rw [h]
  exact hazard_of_no_sources rfl _ _

theorem State.exOut_of_bubble {s : State} (h : s.cur.idex = IdEx.empty) : s.exOut = some ExMem.empty := by
  simp only [State.exOut, State.exValue, h]
  rfl

theorem State.memOut_of_bubble {s : State} (h : s.cur.exmem = ExMem.empty) :
    s.memOut = some (MemWb.empty, s.mem, s.draws) := by
  simp only [State.memOut, h]
  rfl

theorem State.writtenBack_of_bubble {s : State} (h : s.cur.memwb = MemWb.empty) : s.writtenBack = s := by
  simp only [State.writtenBack, h]
  rfl

/-- Behind an empty IF/ID a drain cycle leaves the front end empty and pc where it was. -/
theorem drainCycle_of_ifid_empty {s t : State} (h : drainCycle s = .next t) (hifid : s.cur.ifid = IfId.empty) :
    t.cur.ifid = IfId.empty ∧ t.cur.idex = IdEx.empty ∧ t.pc = s.pc := by
  obtain ⟨hidex, hifid', hpc, _⟩ := drainCycle_accepts h (hazard_of_ifid_empty hifid)
  rw [hifid] at hidex hpc
  exact ⟨hifid', hidex, hpc⟩

theorem BackEnd.exmem_of_bubble {s t : State} (h : BackEnd s t) (hidex : s.cur.idex = IdEx.empty) :
    t.cur.exmem = ExMem.empty :=
  Option.some.inj (h.ex.symm.trans (State.exOut_of_bubble hidex))

theorem BackEnd.mem_of_bubble {s t : State} (h : BackEnd s t) (hexmem : s.cur.exmem = ExMem.empty) :
    t.cur.memwb = MemWb.empty ∧ t.mem = s.mem ∧ t.draws = s.draws := by
  have hm := h.mem.symm.trans (State.memOut_of_bubble hexmem)
  simpa using hm

/-! ## Cycles until the pipeline is empty -/

/-- Every run of `k` drain cycles ends with an empty pipeline. -/
def ClearsIn (k : Nat) (s : State) : Prop := ∀ t, drain k s = .next t → t.cur = Latches.empty

theorem clearsIn_succ {k : Nat} {s : State} (h : ∀ t, drainCycle s = .next t → ClearsIn k t) :
    ClearsIn (k + 1) s := by
  intro t ht
  obtain ⟨s1, h1, h2⟩ := andThen_eq_next ht
  exact h s1 h1 t h2

theorem Latches.eq_but_ifid {c d : Latches} (hifid : c.ifid = IfId.empty) (hidex : c.idex = d.idex)
    (hexmem : c.exmem = d.exmem) (hmemwb : c.memwb = d.memwb) : c = { d with ifid := IfId.empty } := by
  obtain ⟨ifid, idex, exmem, memwb⟩ := c
  simp only at hifid hidex hexmem hmemwb
  rw [hifid, hidex, hexmem, hmemwb]

theorem Latches.eq_empty {c : Latches} (hifid : c.ifid = IfId.empty) (hidex : c.idex = IdEx.empty)
    (hexmem : c.exmem = ExMem.empty) (hmemwb : c.memwb = MemWb.empty) : c = Latches.empty :=
  Latches.eq_but_ifid (d := Latches.empty) hifid hidex hexmem hmemwb

theorem clearsIn_one {s : State} (hifid : s.cur.ifid = IfId.empty) (hidex : s.cur.idex = IdEx.empty)
    (hexmem : s.cur.exmem = ExMem.empty) : ClearsIn 1 s := by
  refine clearsIn_succ fun t h => ?_
  rintro _ ⟨⟩
  obtain ⟨hifid', hidex', _⟩ := drainCycle_of_ifid_empty h hifid
  have hback := drainCycle_backEnd h
  exact Latches.eq_empty hifid' hidex' (hback.exmem_of_bubble hidex) (hback.mem_of_bubble hexmem).1

theorem clearsIn_two {s : State} (hifid : s.cur.ifid = IfId.empty) (hidex : s.cur.idex = IdEx.empty) :
    ClearsIn 2 s := by
  refine clearsIn_succ fun t h => ?_
  obtain ⟨hifid', hidex', _⟩ := drainCycle_of_ifid_empty h hifid
  exact clearsIn_one hifid' hidex' ((drainCycle_backEnd h).exmem_of_bubble hidex)

theorem clearsIn_three {s : State} (hifid : s.cur.ifid = IfId.empty) : ClearsIn 3 s := by
  refine clearsIn_succ fun t h => ?_
  obtain ⟨hifid', hidex', _⟩ := drainCycle_of_ifid_empty h hifid
  exact clearsIn_two hifid' hidex'

theorem clearsIn_four {s : State} (hz : hazard s.input.fwd s.cur s.cur.ifid.ins = false) : ClearsIn 4 s :=
  clearsIn_succ fun _ h => clearsIn_three (drainCycle_accepts h hz).2.1

/-- Without producers in ID/EX and EX/MEM nothing stalls. -/
theorem hazard_of_bubbles {c : Latches} (hidex : c.idex = IdEx.empty) (hexmem : c.exmem = ExMem.empty) (fwd : Bool)
    (ins : Record) : hazard fwd c ins = false :=
  hazard_of_no_producer (fun r _ => by rw [hidex]; rfl) (fun r _ => by rw [hexmem]; rfl) fwd

/-- Behind one stall there is at most one more. -/
theorem clearsIn_five {s : State} (hidex : s.cur.idex = IdEx.empty) : ClearsIn 5 s := by
  refine clearsIn_succ fun t h => ?_
  cases hz : hazard s.input.fwd s.cur s.cur.ifid.ins with
  | true =>
    have hexmem' := (drainCycle_backEnd h).exmem_of_bubble hidex
    exact clearsIn_four (hazard_of_bubbles (drainCycle_stalls h hz).1 hexmem' _ _)
  | false => exact clearsIn_four (hazard_of_ifid_empty (drainCycle_accepts h hz).2.1)

theorem clearsIn_six (s : State) : ClearsIn 6 s := by
  refine clearsIn_succ fun t h => ?_
  cases hz : hazard s.input.fwd s.cur s.cur.ifid.ins with
  | true => exact clearsIn_five (drainCycle_stalls h hz).1
  | false =>
    exact clearsIn_succ fun u hu => clearsIn_four (hazard_of_ifid_empty
      (drainCycle_of_ifid_empty hu (drainCycle_accepts h hz).2.1).1)

/-! ## The state a pipeline settles in -/

/-- `k` drain cycles empty the pipeline and leave the architectural state `a`. -/
def SettlesIn (k : Nat) (s : State) (a : Arch) : Prop :=
  ∃ t, drain k s = .next t ∧ t.cur = Latches.empty ∧ t.arch = a

/-- Some number of drain cycles does. -/
def Settles (s : State) (a : Arch) : Prop := ∃ k, SettlesIn k s a

/-- An empty pipeline stays as it is. -/
theorem drainCycle_of_empty {s : State} (h : s.cur = Latches.empty) :
    ∃ t, drainCycle s = .next t ∧ t.cur = Latches.empty ∧ t.arch = s.arch := by
  have hifid : s.cur.ifid = IfId.empty := by rw [h]; rfl
  have hidex : s.cur.idex = IdEx.empty := by rw [h]; rfl
  have hexmem : s.cur.exmem = ExMem.empty := by rw [h]; rfl
  have hmemwb : s.cur.memwb = MemWb.empty := by rw [h]; rfl
  obtain ⟨t, ht⟩ := drainCycle_isNext (s := s) (by rw [hmemwb]; rfl) (by rw [hexmem]; rfl) (by rw [hidex]; rfl)
    (by rw [State.memOut_of_bubble hexmem]; exact Option.some_ne_none _)
    (by rw [State.exOut_of_bubble hidex]; exact Option.some_ne_none _) (by rw [hifid]; rfl)
  have hback := drainCycle_backEnd ht
  obtain ⟨hifid', hidex', hpc⟩ := drainCycle_of_ifid_empty ht hifid
  obtain ⟨hmemwb', hmem, hdraws⟩ := hback.mem_of_bubble hexmem
  refine ⟨t, ht, Latches.eq_empty hifid' hidex' (hback.exmem_of_bubble hidex) hmemwb', ?_⟩
  rw [State.arch, hback.regs, State.writtenBack_of_bubble hmemwb, hmem, hdraws, hpc, State.arch]

theorem settlesIn_succ_iff {k : Nat} {s : State} {a : Arch} :
    SettlesIn (k + 1) s a ↔ ∃ s1, drainCycle s = .next s1 ∧ SettlesIn k s1 a := by
  constructor
  · rintro ⟨t, ht, hempty, harch⟩
    obtain ⟨s1, h1, h2⟩ := andThen_eq_next ht
    exact ⟨s1, h1, t, h2, hempty, harch⟩
  · rintro ⟨s1, h1, t, ht, hempty, harch⟩
    exact ⟨t, by rw [drain, h1]; exact ht, hempty, harch⟩

theorem settles_of_empty {s : State} (h : s.cur = Latches.empty) : Settles s s.arch := ⟨0, s, rfl, h, rfl⟩

theorem Settles.of_cycle {s s1 : State} {a : Arch} (h : drainCycle s = .next s1) (hs : Settles s1 a) : Settles s a := by
  obtain ⟨k, hk⟩ := hs
  exact ⟨k + 1, settlesIn_succ_iff.2 ⟨s1, h, hk⟩⟩

/-- A pipeline that settles makes a drain cycle, and then settles in the same state. -/
theorem Settles.cycle {s : State} {a : Arch} (h : Settles s a) : ∃ s1, drainCycle s = .next s1 ∧ Settles s1 a := by
  obtain ⟨k, hk⟩ := h
  cases k with
  | zero =>
    obtain ⟨t, ht, hempty, rfl⟩ := hk
    obtain rfl := Host.Outcome.next.inj ht
    obtain ⟨s1, h1, hempty1, harch1⟩ := drainCycle_of_empty hempty
    exact ⟨s1, h1, harch1 ▸ settles_of_empty hempty1⟩
  | succ k =>
    obtain ⟨s1, h1, hk1⟩ := settlesIn_succ_iff.1 hk
    exact ⟨s1, h1, k, hk1⟩

theorem Settles.next {s s1 : State} {a : Arch} (h : Settles s a) (hcycle : drainCycle s = .next s1) : Settles s1 a := by
  obtain ⟨s2, h2, hs⟩ := h.cycle
  rwa [Host.Outcome.next.inj (hcycle.symm.trans h2)]

/-- An empty pipeline has settled. -/
theorem Settles.eq_of_empty {s : State} {a : Arch} (h : Settles s a) (hempty : s.cur = Latches.empty) : a = s.arch := by
  obtain ⟨k, hk⟩ := h
  induction k generalizing s with
  | zero =>
    obtain ⟨t, ht, _, rfl⟩ := hk
    rw [Host.Outcome.next.inj ht]
  | succ k ih =>
    obtain ⟨s1, h1, hk1⟩ := settlesIn_succ_iff.1 hk
    obtain ⟨s2, h2, hempty2, harch2⟩ := drainCycle_of_empty hempty
    obtain rfl := Host.Outcome.next.inj (h1.symm.trans h2)
    rw [← harch2]
    exact ih hempty2 hk1

/-- A pipeline that settles does so within any number of cycles that empties it. -/
theorem Settles.settlesIn {s : State} {a : Arch} {n : Nat} (h : Settles s a) (hclears : ClearsIn n s) :
    SettlesIn n s a := by
  induction n generalizing s with
  | zero =>
    have hempty := hclears s rfl
    exact ⟨s, rfl, hempty, (h.eq_of_empty hempty).symm⟩
  | succ n ih =>
    obtain ⟨s1, h1, hs1⟩ := h.cycle
    refine settlesIn_succ_iff.2 ⟨s1, h1, ih hs1 fun t ht => hclears t ?_⟩
    rw [drain, h1]
    exact ht

/-- Behind an empty IF/ID nothing moves pc. -/
theorem Settles.pc {s : State} {a : Arch} (h : Settles s a) (hifid : s.cur.ifid = IfId.empty) : a.pc = s.pc := by
  obtain ⟨k, hk⟩ := h
  induction k generalizing s with
  | zero =>
    obtain ⟨t, ht, _, rfl⟩ := hk
    rw [Host.Outcome.next.inj ht]
    rfl
  | succ k ih =>
    obtain ⟨s1, h1, hk1⟩ := settlesIn_succ_iff.1 hk
    obtain ⟨hifid', _, hpc⟩ := drainCycle_of_ifid_empty h1 hifid
    exact (ih hifid' hk1).trans hpc

end Sys2Proof.Machine
end

section
/-! The registers a pipeline settles in, as its latches already show them (50_pipeline.md R333 to R336): where no
producer of a register is left, the file; behind a producer, the value the mux forwards. -/

namespace Sys2Proof.Machine

/-! ## Latches one cycle on -/

section
variable {s t : State} (h : BackEnd s t)
include h

theorem BackEnd.exmem_fields : t.cur.exmem.ins = s.cur.idex.ins ∧ t.cur.exmem.ctl = s.cur.idex.ctl := by
  obtain ⟨_, hexmem⟩ := State.exOut_eq_some h.ex
  rw [hexmem]
  exact ⟨rfl, rfl⟩

theorem BackEnd.memwb_fields : t.cur.memwb.ins = s.cur.exmem.ins ∧ t.cur.memwb.ctl = s.cur.exmem.ctl ∧
    t.cur.memwb.aluResult = s.cur.exmem.aluResult := by
  have hmem := h.mem
  unfold State.memOut at hmem
  split at hmem
  · obtain ⟨p, _, hp⟩ := Option.map_eq_some_iff.1 hmem
    rw [← (Prod.mk.inj hp).1]
    exact ⟨rfl, rfl, rfl⟩
  · cases hmem

/-- A producer in ID/EX is one in EX/MEM a cycle later. -/
theorem BackEnd.produces_exmem (r : Reg) :
    produces t.cur.exmem.ctl t.cur.exmem.ins r = produces s.cur.idex.ctl s.cur.idex.ins r := by
  rw [h.exmem_fields.1, h.exmem_fields.2]

/-- A producer in EX/MEM is one in MEM/WB a cycle later. -/
theorem BackEnd.produces_memwb (r : Reg) :
    produces t.cur.memwb.ctl t.cur.memwb.ins r = produces s.cur.exmem.ctl s.cur.exmem.ins r := by
  rw [h.memwb_fields.1, h.memwb_fields.2.1]

theorem BackEnd.readReg (r : Reg) : t.readReg r =
    if produces s.cur.memwb.ctl s.cur.memwb.ins r then s.cur.memwb.value else s.readReg r := by
  rw [State.readReg_congr h.regs, State.writtenBack]
  by_cases hw : s.cur.memwb.ctl.regWrite = true
  · simp [hw, State.readReg_writeDest, produces_iff]
  · simp [hw, produces_iff]

end

/-! ## Registers with no producer, and with one -/

section
variable {w z : State} {r : Reg}

/-- A register that nothing in flight produces stays as it is. -/
theorem Settles.readReg_of_no_producer (h : Settles w z.arch) (hifid : w.cur.ifid = IfId.empty)
    (hidex : produces w.cur.idex.ctl w.cur.idex.ins r = false)
    (hexmem : produces w.cur.exmem.ctl w.cur.exmem.ins r = false)
    (hmemwb : produces w.cur.memwb.ctl w.cur.memwb.ins r = false) : z.readReg r = w.readReg r := by
  obtain ⟨k, hk⟩ := h
  induction k generalizing w with
  | zero =>
    obtain ⟨t, ht, _, harch⟩ := hk
    obtain rfl := Host.Outcome.next.inj ht
    exact State.readReg_congr (congrArg Arch.regs harch.symm) r
  | succ k ih =>
    obtain ⟨w1, h1, hk1⟩ := settlesIn_succ_iff.1 hk
    have hback := drainCycle_backEnd h1
    obtain ⟨hifid', hidex', _⟩ := drainCycle_of_ifid_empty h1 hifid
    have hread : w1.readReg r = w.readReg r := by rw [hback.readReg, hmemwb]; rfl
    rw [← hread]
    exact ih hifid' (by rw [hidex']; rfl) (by rw [hback.produces_exmem, hidex])
      (by rw [hback.produces_memwb, hexmem]) hk1

/-- With no producer ahead of MEM/WB, a register settles as WB leaves it. -/
theorem Settles.readReg_writtenBack (h : Settles w z.arch) (hifid : w.cur.ifid = IfId.empty)
    (hidex : produces w.cur.idex.ctl w.cur.idex.ins r = false)
    (hexmem : produces w.cur.exmem.ctl w.cur.exmem.ins r = false) : z.readReg r =
      if produces w.cur.memwb.ctl w.cur.memwb.ins r then w.cur.memwb.value else w.readReg r := by
  obtain ⟨w1, h1, hs1⟩ := h.cycle
  have hback := drainCycle_backEnd h1
  obtain ⟨hifid', hidex', _⟩ := drainCycle_of_ifid_empty h1 hifid
  rw [← hback.readReg]
  exact hs1.readReg_of_no_producer hifid' (by rw [hidex']; rfl) (by rw [hback.produces_exmem, hidex])
    (by rw [hback.produces_memwb, hexmem])

/-- A producer in EX/MEM that is no load, with none behind it, gives its result. -/
theorem Settles.readReg_exmem (h : Settles w z.arch) (hifid : w.cur.ifid = IfId.empty)
    (hidex : produces w.cur.idex.ctl w.cur.idex.ins r = false)
    (hexmem : produces w.cur.exmem.ctl w.cur.exmem.ins r = true) (hload : w.cur.exmem.ctl.memRead = false) :
    z.readReg r = w.cur.exmem.aluResult := by
  obtain ⟨w1, h1, hs1⟩ := h.cycle
  have hback := drainCycle_backEnd h1
  obtain ⟨hifid', hidex', _⟩ := drainCycle_of_ifid_empty h1 hifid
  obtain ⟨_, hctl, halu⟩ := hback.memwb_fields
  rw [hs1.readReg_writtenBack hifid' (by rw [hidex']; rfl) (by rw [hback.produces_exmem, hidex]),
    hback.produces_memwb, hexmem, MemWb.value, hctl, hload, halu]
  rfl

/-- The mux gives the register a pipeline settles in, where no producer is in ID/EX and none that loads in EX/MEM,
and the value it is given is the file's where it is used. -/
theorem Settles.readReg_eq_forward (h : Settles w z.arch) (hifid : w.cur.ifid = IfId.empty)
    (hidex : produces w.cur.idex.ctl w.cur.idex.ins r = false)
    (hload : produces w.cur.exmem.ctl w.cur.exmem.ins r = true → w.cur.exmem.ctl.memRead = false) {v : Word}
    (hv : produces w.cur.exmem.ctl w.cur.exmem.ins r = false →
      produces w.cur.memwb.ctl w.cur.memwb.ins r = false → v = w.readReg r) :
    forward w.cur r v = z.readReg r := by
  by_cases hr : r = 0#5
  · rw [hr, forward_zero, State.readReg_zero]
    rfl
  · rw [forward, if_neg hr]
    cases hexmem : produces w.cur.exmem.ctl w.cur.exmem.ins r with
    | true => simp [hload hexmem, h.readReg_exmem hifid hidex hexmem (hload hexmem)]
    | false =>
      rw [h.readReg_writtenBack hifid hidex hexmem]
      cases hmemwb : produces w.cur.memwb.ctl w.cur.memwb.ins r with
      | true => simp
      | false => simp [hv hexmem hmemwb]

end

end Sys2Proof.Machine
end

section
/-! The terms O59's simulation compares with: what an accepted instruction knows of its sources, and what the whole of
an instruction makes of a settled state (50_pipeline.md R330 to R332, R338). -/

namespace Sys2Proof.Machine

/-! ## Hazards and operands -/

/-- What an accepted instruction knows of its sources' producers (R330 to R332). -/
theorem no_hazard_source {fwd : Bool} {c : Latches} {ins : Record} {r : Reg} (h : hazard fwd c ins = false)
    (hr : r ∈ ins.sources) :
    (produces c.idex.ctl c.idex.ins r = true → fwd = true ∧ c.idex.ctl.memRead = false) ∧
    (produces c.exmem.ctl c.exmem.ins r = true → fwd = true) ∧
    (readsInDecode ins = true → produces c.idex.ctl c.idex.ins r = false ∧
      (produces c.exmem.ctl c.exmem.ins r = true → c.exmem.ctl.memRead = false)) := by
  cases fwd with
  | false =>
    rw [Bool.eq_false_iff, ne_eq, hazard_false_iff] at h
    have hidex : produces c.idex.ctl c.idex.ins r = false := by
      rw [Bool.eq_false_iff]
      exact fun hp => h ⟨r, hr, .inl hp⟩
    have hexmem : produces c.exmem.ctl c.exmem.ins r = false := by
      rw [Bool.eq_false_iff]
      exact fun hp => h ⟨r, hr, .inr hp⟩
    simp [hidex, hexmem]
  | true =>
    rw [Bool.eq_false_iff, ne_eq, hazard_true_iff] at h
    refine ⟨fun hp => ⟨rfl, ?_⟩, fun _ => rfl, fun hreads => ⟨?_, fun hp => ?_⟩⟩
    · rw [Bool.eq_false_iff]
      exact fun hload => h ⟨r, hr, .inl ⟨hload, hp⟩⟩
    · rw [Bool.eq_false_iff]
      exact fun hp => h ⟨r, hr, .inr ⟨hreads, .inl hp⟩⟩
    · rw [Bool.eq_false_iff]
      exact fun hload => h ⟨r, hr, .inr ⟨hreads, .inr ⟨hload, hp⟩⟩⟩

theorem mem_sources_of_rs1 {ins : Record} {r : Reg} (h : ins.rs1 = some r) : r ∈ ins.sources := by
  simp [Record.sources, h]

theorem mem_sources_of_rs2 {ins : Record} {r : Reg} (h : ins.rs2 = some r) : r ∈ ins.sources := by
  simp [Record.sources, h]

/-- Only the records ID resolves with their operands redirect by them (R317). -/
theorem redirectOf_congr {ins : Record} (hs : supported ins = true) {a a' b b' : Word} (ipc : Word)
    (h : readsInDecode ins = true → a = a' ∧ b = b') : redirectOf ins ipc a b = redirectOf ins ipc a' b' := by
  by_cases hreads : readsInDecode ins = true
  · rw [(h hreads).1, (h hreads).2]
  · obtain ⟨i, hi⟩ := (supported_iff ins).1 hs
    rw [readsInDecode_iff, not_or] at hreads
    obtain ⟨h63, h67⟩ := hreads
    obtain ⟨raw, op, payload⟩ := ins
    cases payload with
    | r | s | u | j | nop | unknown => rfl
    | i => exact (if_neg h67).trans (if_neg h67).symm
    | b => exact nomatch (if_neg h63).symm.trans hi

/-- A record has a destination exactly where its signals write one (30_encoding.md R115, R131). -/
theorem control_regWrite (ins : Record) : (control ins).regWrite = ins.rd.isSome := by
  obtain ⟨raw, op, payload⟩ := ins
  cases payload with
  | i =>
    unfold control
    simp only
    split_ifs <;> rfl
  | r | s | b | u | j | nop | unknown => rfl

/-! ## The whole instruction on a settled state -/

/-- `b` holds the memory, draws and registers that the access and the write of a record leave of `z`, from the
record's result and store data. -/
def Completes (z : State) (ins : Record) (result data : Word) (b : Arch) : Prop :=
  ∃ i v, ins.instr = .ok i ∧ z.accessed i.loadKind i.storeKind result data = some (v, b.mem, b.draws) ∧
    b.regs = (z.writeDest ins.rd (if i.loadKind.isSome then v else result)).regs

/-- The same from the record's address and the registers of `z`. -/
def Executes (z : State) (ins : Record) (ipc : Word) (b : Arch) : Prop :=
  ∃ r, exResult z.input.divOverflow ins (control ins) ipc (z.operand ins.rs1) (z.operand ins.rs2) = some r ∧
    Completes z ins r (z.operand ins.rs2) b

theorem State.operand_congr {s t : State} (h : t.regs = s.regs) (r : Option Reg) : t.operand r = s.operand r := by
  cases r with
  | none => rfl
  | some r => exact State.readReg_congr h r

/-- The sequential reading of a record at pc is the whole of its work. -/
theorem runIn_whole_of_executes {z s : State} {ins : Record} {b : Arch} (hinput : s.input = z.input)
    (harch : s.arch = z.arch) (h : Executes z ins s.pc b)
    (hpc : b.pc = (redirectOf ins s.pc (z.operand ins.rs1) (z.operand ins.rs2)).getD (s.pc + 4)) :
    ∃ e, runIn .whole ins s.pc s = .next e ∧ e.arch = b := by
  obtain ⟨r, hr, i, v, hi, haccess, hregs⟩ := h
  have hregs' : s.regs = z.regs := congrArg Arch.regs harch
  obtain ⟨w, hw, hrs1, hrs2, hrd, hload, hstore, htarget, hresult⟩ := work_of_record hi
  have hop (q : Option Reg) : (s.setActivity .whole).operand q = z.operand q := State.operand_congr hregs' q
  rw [← State.accessed_congr (t := s.setActivity .whole) hinput (congrArg Arch.mem harch) (congrArg Arch.draws harch),
    ← hload, ← hstore] at haccess
  obtain ⟨⟨v', u⟩, hu, hvu⟩ := Option.map_eq_some_iff.1 haccess
  obtain ⟨rfl, hmem, hdraws⟩ : v' = v ∧ u.mem = b.mem ∧ u.draws = b.draws := by simpa using hvu
  have huregs : u.regs = z.regs := by
    rw [State.access_frame hu]
    exact hregs'
  have hvalue : resultWhole w (s.setActivity .whole) = some r := by
    rw [resultWhole, hresult, hop, hop, hrs1, hrs2]
    exact hinput ▸ hr
  rw [← hop, ← hrs2] at hu
  rw [runIn_of_ok hi, hw]
  refine ⟨_, perform_whole_of_access rfl hvalue hu, ?_⟩
  have hpcw : pcAfter w (s.setActivity .whole) = b.pc := by
    rw [pcAfter, htarget, hop, hop, hrs1, hrs2, hpc]
    rfl
  have hfinal : (u.writeDest w.rd (if w.load.isSome then v' else r)).regs = b.regs := by
    rw [hregs, hrd, hload]
    exact State.writeDest_regs_congr huregs _ _
  simp [State.arch, hpcw, hfinal, hmem, hdraws]

end Sys2Proof.Machine
end

section
/-! One instruction more in the pipeline (50_pipeline.md R338). A pipeline `u` with one instruction more than a pipeline
`w`, the youngest, settles in what that instruction as a whole makes of the state `z` in which `w` settles. Shown from
the back: with the instruction in MEM/WB, then in EX/MEM, in ID/EX and in IF/ID. -/

namespace Sys2Proof.Machine

/-! ## Pipelines that agree behind the instruction -/

/-- Two pipelines with the same registers, memory, draws and MEM/WB. -/
structure Alike (u w : State) : Prop where
  input : w.input = u.input
  regs : w.regs = u.regs
  mem : w.mem = u.mem
  draws : w.draws = u.draws
  memwb : w.cur.memwb = u.cur.memwb

/-- Pipelines that differ in IF/ID alone make the same EX/MEM. -/
theorem Alike.exOut {u w : State} (halike : Alike u w) (hcur : w.cur = { u.cur with ifid := IfId.empty }) :
    w.exOut = u.exOut :=
  (State.exOut_congr (s := { u with cur := { u.cur with ifid := IfId.empty } }) halike.input hcur).trans rfl

theorem Alike.memOut {u w : State} (halike : Alike u w) (hexmem : w.cur.exmem = u.cur.exmem) : w.memOut = u.memOut :=
  State.memOut_congr halike.input halike.mem halike.draws hexmem halike.memwb

section
variable {u u1 w w1 : State} (h : BackEnd u u1) (hw : BackEnd w w1) (halike : Alike u w)
include h hw halike

theorem BackEnd.regs_alike : w1.regs = u1.regs := by
  rw [hw.regs, h.regs]
  exact State.writtenBack_congr halike.regs halike.memwb

/-- Alike pipelines with the same EX/MEM are alike after a cycle. -/
theorem BackEnd.alike (hexmem : w.cur.exmem = u.cur.exmem) : Alike u1 w1 := by
  obtain ⟨hmemwb, hmem, hdraws⟩ : w1.cur.memwb = u1.cur.memwb ∧ w1.mem = u1.mem ∧ w1.draws = u1.draws := by
    simpa using hw.mem.symm.trans ((halike.memOut hexmem).trans h.mem)
  exact ⟨by rw [hw.input, h.input, halike.input], h.regs_alike hw halike, hmem, hdraws, hmemwb⟩

theorem BackEnd.exmem_alike (hcur : w.cur = { u.cur with ifid := IfId.empty }) : w1.cur.exmem = u1.cur.exmem :=
  Option.some.inj (hw.ex.symm.trans ((halike.exOut hcur).trans h.ex))

end

/-! ## The instruction in MEM/WB and in EX/MEM -/

/-- Alone in MEM/WB an instruction has its write left. -/
theorem Settles.in_memwb {u : State} {b : Arch} (h : Settles u b) (hifid : u.cur.ifid = IfId.empty)
    (hidex : u.cur.idex = IdEx.empty) (hexmem : u.cur.exmem = ExMem.empty) :
    b = ⟨u.writtenBack.regs, u.mem, u.pc, u.draws⟩ := by
  obtain ⟨u1, h1, hs1⟩ := h.cycle
  have hback := drainCycle_backEnd h1
  obtain ⟨hifid1, hidex1, hpc⟩ := drainCycle_of_ifid_empty h1 hifid
  obtain ⟨hmemwb1, hmem, hdraws⟩ := hback.mem_of_bubble hexmem
  have hempty := Latches.eq_empty hifid1 hidex1 (hback.exmem_of_bubble hidex) hmemwb1
  rw [hs1.eq_of_empty hempty, State.arch, hback.regs, hmem, hdraws, hpc]

/-- The pipeline without the younger instruction makes the cycle too, where it has a bubble in its place and the
rest of the back end is alike. -/
theorem BackEnd.cycle_alike {u u1 w : State} (h : BackEnd u u1) (halike : Alike u w)
    (hifid : w.cur.ifid = IfId.empty)
    (hmem : w.cur.exmem = ExMem.empty ∨ w.cur.exmem = u.cur.exmem)
    (hex : w.cur.idex = IdEx.empty ∨ w.cur = { u.cur with ifid := IfId.empty }) :
    ∃ w1, drainCycle w = .next w1 ∧ BackEnd w w1 ∧ w1.cur.ifid = IfId.empty ∧ w1.cur.idex = IdEx.empty := by
  obtain ⟨hsupx, hsupm, hsupw⟩ := h.supported_behind_id
  have hsupm' : supported w.cur.exmem.ins = true ∧ w.memOut ≠ none := by
    rcases hmem with he | he
    · rw [State.memOut_of_bubble he, he]
      exact ⟨rfl, Option.some_ne_none _⟩
    · rw [halike.memOut he, he, h.mem]
      exact ⟨hsupm, Option.some_ne_none _⟩
  have hsupx' : supported w.cur.idex.ins = true ∧ w.exOut ≠ none := by
    rcases hex with he | he
    · rw [State.exOut_of_bubble he, he]
      exact ⟨rfl, Option.some_ne_none _⟩
    · rw [halike.exOut he, h.ex, he]
      exact ⟨hsupx, Option.some_ne_none _⟩
  obtain ⟨w1, h1⟩ := drainCycle_isNext (s := w) (by rwa [halike.memwb]) hsupm'.1 hsupx'.1 hsupm'.2 hsupx'.2
    (by rw [hifid]; rfl)
  obtain ⟨hifid1, hidex1, _⟩ := drainCycle_of_ifid_empty h1 hifid
  exact ⟨w1, h1, drainCycle_backEnd h1, hifid1, hidex1⟩

/-- In EX/MEM an instruction has its access and its write left, with the store data R303 gives it. -/
theorem Settles.in_exmem {u w : State} {b : Arch} (h : Settles u b) (halike : Alike u w)
    (hifid : u.cur.ifid = IfId.empty) (hidex : u.cur.idex = IdEx.empty)
    (hctl : u.cur.exmem.ctl = control u.cur.exmem.ins)
    (hwifid : w.cur.ifid = IfId.empty) (hwidex : w.cur.idex = IdEx.empty) (hwexmem : w.cur.exmem = ExMem.empty) :
    ∃ z : State, z.input = u.input ∧ Settles w z.arch ∧
      Completes z u.cur.exmem.ins u.cur.exmem.aluResult u.storeValue b := by
  obtain ⟨u1, h1, hs1⟩ := h.cycle
  have hback := drainCycle_backEnd h1
  obtain ⟨hifid1, hidex1, _⟩ := drainCycle_of_ifid_empty h1 hifid
  obtain ⟨w1, hw1, hwback, hwifid1, hwidex1⟩ :=
    hback.cycle_alike halike hwifid (.inl hwexmem) (.inl hwidex)
  obtain ⟨hwmemwb1, hwmem, hwdraws⟩ := hwback.mem_of_bubble hwexmem
  have hempty := Latches.eq_empty hwifid1 hwidex1 (hwback.exmem_of_bubble hwidex) hwmemwb1
  have hinput : w1.input = u.input := hwback.input.trans halike.input
  have hregs : w1.regs = u1.regs := hback.regs_alike hwback halike
  refine ⟨w1, hinput, (settles_of_empty hempty).of_cycle hw1, ?_⟩
  obtain ⟨i, hi⟩ := (supported_iff _).1 hback.supported_behind_id.2.1
  have hmem := hback.mem
  rw [State.memOut_of_instr hi hctl] at hmem
  obtain ⟨⟨v, m, n⟩, haccess, hout⟩ := Option.map_eq_some_iff.1 hmem
  obtain ⟨hmemwb1, rfl, rfl⟩ : _ = u1.cur.memwb ∧ m = u1.mem ∧ n = u1.draws := by simpa using hout
  have hb := hs1.in_memwb hifid1 hidex1 (hback.exmem_of_bubble hidex)
  have hread : u.cur.exmem.ctl.memRead = i.loadKind.isSome := by
    rw [hctl, control_of_instr hi, signalTable_memRead]
  refine ⟨i, v, hi, ?_, ?_⟩
  · rw [State.accessed_congr (s := u) hinput (hwmem.trans halike.mem)
      (hwdraws.trans halike.draws), haccess, hb]
  · have hvalue : u1.cur.memwb.value = if i.loadKind.isSome then v else u.cur.exmem.aluResult := by
      rw [← hmemwb1, MemWb.value, hread]
    rw [hb, State.writtenBack, hvalue, ← hmemwb1, hctl, control_regWrite]
    cases hrd : u.cur.exmem.ins.rd with
    | none => exact hregs.symm
    | some d =>
      simp only [Option.isSome_some, if_true]
      exact State.writeDest_regs_congr hregs.symm _ _

/-! ## The instruction in ID/EX -/

/-- The value `v` that an instruction in ID/EX holds of a source `r` ends, through the mux of EX, as the register of
the pipeline `w` of the instructions before it: each producer left there can be forwarded, and with none of them `v`
is what the file holds. -/
structure Tracks (w : State) (r : Reg) (v : Word) : Prop where
  exmem : produces w.cur.exmem.ctl w.cur.exmem.ins r = true → w.input.fwd = true ∧ w.cur.exmem.ctl.memRead = false
  memwb : produces w.cur.memwb.ctl w.cur.memwb.ins r = true → w.input.fwd = true
  file : produces w.cur.exmem.ctl w.cur.exmem.ins r = false → produces w.cur.memwb.ctl w.cur.memwb.ins r = false →
    v = w.readReg r

theorem Tracks.bypass_eq {w z : State} {r : Reg} {v : Word} (h : Tracks w r v) (hs : Settles w z.arch)
    (hifid : w.cur.ifid = IfId.empty) (hidex : w.cur.idex = IdEx.empty) : w.bypass r v = z.readReg r := by
  have hnone : produces w.cur.idex.ctl w.cur.idex.ins r = false := by rw [hidex]; rfl
  unfold State.bypass
  cases hfwd : w.input.fwd with
  | true => exact hs.readReg_eq_forward hifid hnone (fun hp => (h.exmem hp).2) h.file
  | false =>
    have hexmem : produces w.cur.exmem.ctl w.cur.exmem.ins r = false := by
      rw [Bool.eq_false_iff]
      exact fun hp => nomatch hfwd.symm.trans (h.exmem hp).1
    have hmemwb : produces w.cur.memwb.ctl w.cur.memwb.ins r = false := by
      rw [Bool.eq_false_iff]
      exact fun hp => nomatch hfwd.symm.trans (h.memwb hp)
    rw [hs.readReg_of_no_producer hifid hnone hexmem hmemwb]
    exact h.file hexmem hmemwb

/-- The operand field of an optional source: 0 without one. -/
def TracksOperand (w : State) (r : Option Reg) (v : Word) : Prop :=
  match r with
  | none => v = 0
  | some r => Tracks w r v

theorem TracksOperand.operandInEx_eq {u w z : State} {r : Option Reg} {v : Word} (h : TracksOperand w r v)
    (halike : Alike u w) (hexmem : w.cur.exmem = u.cur.exmem) (hs : Settles w z.arch)
    (hifid : w.cur.ifid = IfId.empty) (hidex : w.cur.idex = IdEx.empty) : u.operandInEx r v = z.operand r := by
  cases r with
  | none => exact h
  | some r =>
    have hbypass : u.bypass r v = w.bypass r v := by
      simp only [State.bypass, forward, halike.input, hexmem, halike.memwb]
    exact hbypass.trans (Tracks.bypass_eq h hs hifid hidex)

/-- The store data of MEM is the source register as the older instructions leave it: the one in MEM/WB, whose write is
left, is substituted where it produces it (R303). -/
theorem State.storeValue_eq_settled {u w z : State} (halike : Alike u w) (hs : Settles w z.arch)
    (hifid : w.cur.ifid = IfId.empty) (hidex : w.cur.idex = IdEx.empty) (hexmem : w.cur.exmem = ExMem.empty)
    (hdata : u.cur.exmem.storeData = z.operand u.cur.exmem.ins.rs2) : u.storeValue = z.operand u.cur.exmem.ins.rs2 := by
  rw [State.storeValue, hdata]
  cases u.cur.exmem.ins.rs2 with
  | none => rfl
  | some r =>
    simp only
    split
    · next hp =>
      rw [Bool.and_eq_true, ← halike.memwb] at hp
      obtain ⟨_, hproduces⟩ := hp
      have hr := hs.readReg_writtenBack (r := r) hifid (by rw [hidex]; rfl) (by rw [hexmem]; rfl)
      rw [if_pos hproduces, halike.memwb] at hr
      exact hr.symm
    · rfl

/-- In ID/EX an instruction has all but its operands' reading left. -/
theorem Settles.in_idex {u w : State} {b : Arch} (h : Settles u b) (halike : Alike u w)
    (hifid : u.cur.ifid = IfId.empty) (hctl : u.cur.idex.ctl = control u.cur.idex.ins)
    (ha : TracksOperand w u.cur.idex.ins.rs1 u.cur.idex.a) (hb : TracksOperand w u.cur.idex.ins.rs2 u.cur.idex.b)
    (hwifid : w.cur.ifid = IfId.empty) (hwidex : w.cur.idex = IdEx.empty) (hwexmem : w.cur.exmem = u.cur.exmem) :
    ∃ z : State, z.input = u.input ∧ Settles w z.arch ∧ Executes z u.cur.idex.ins u.cur.idex.pc b := by
  obtain ⟨u1, h1, hs1⟩ := h.cycle
  have hback := drainCycle_backEnd h1
  obtain ⟨hifid1, hidex1, _⟩ := drainCycle_of_ifid_empty h1 hifid
  obtain ⟨w1, hw1, hwback, hwifid1, hwidex1⟩ :=
    hback.cycle_alike halike hwifid (.inr hwexmem) (.inl hwidex)
  have hwexmem1 := hwback.exmem_of_bubble hwidex
  have halike1 := hback.alike hwback halike hwexmem
  obtain ⟨hvalue, hexmem1⟩ := State.exOut_eq_some hback.ex
  have hins1 : u1.cur.exmem.ins = u.cur.idex.ins := by rw [hexmem1]
  have hctl1 : u1.cur.exmem.ctl = control u1.cur.exmem.ins := by rw [hexmem1]; exact hctl
  obtain ⟨z, hz, hsw1, hcompletes⟩ := hs1.in_exmem halike1 hifid1 hidex1 hctl1
    hwifid1 hwidex1 hwexmem1
  have hsw : Settles w z.arch := hsw1.of_cycle hw1
  have hop1 := ha.operandInEx_eq halike hwexmem hsw hwifid hwidex
  have hop2 := hb.operandInEx_eq halike hwexmem hsw hwifid hwidex
  have hstore := State.storeValue_eq_settled halike1 hsw1 hwifid1 hwidex1 hwexmem1 (by rw [hexmem1]; exact hop2)
  refine ⟨z, hz.trans hback.input, hsw, u1.cur.exmem.aluResult, ?_, ?_⟩
  · rw [hz, hback.input, ← hop1, ← hop2]
    exact hvalue
  · rw [hstore, hins1] at hcompletes
    exact hcompletes

/-! ## The instruction in IF/ID -/

/-- What ID reads of a source of an instruction it accepts tracks the register from then on (R314, R330 to R336). -/
theorem tracks_operandInId {u u1 w1 : State} {r : Reg} (hback : BackEnd u u1) (halike : Alike u1 w1)
    (hexmem : w1.cur.exmem = u1.cur.exmem) (hz : hazard u.input.fwd u.cur u.cur.ifid.ins = false)
    (hr : r ∈ u.cur.ifid.ins.sources) : Tracks w1 r ({ u with regs := u1.regs }.operandInId (some r)) := by
  obtain ⟨hidex, hex, _⟩ := no_hazard_source hz hr
  have hfwd : w1.input.fwd = u.input.fwd := by rw [halike.input, hback.input]
  have hmemRead : u1.cur.exmem.ctl.memRead = u.cur.idex.ctl.memRead := by rw [hback.exmem_fields.2]
  refine ⟨?_, ?_, ?_⟩
  · rw [hexmem, hback.produces_exmem, hfwd, hmemRead]
    exact hidex
  · rw [halike.memwb, hback.produces_memwb, hfwd]
    exact hex
  · rw [halike.memwb, hback.produces_memwb]
    intro _ hno
    have hread : w1.readReg r = u1.readReg r := State.readReg_congr halike.regs r
    have hforward : forward u.cur r (u1.readReg r) = u1.readReg r := by
      by_cases hr0 : r = 0#5
      · rw [hr0, forward_zero, State.readReg_zero]
        rfl
      · rw [forward, if_neg hr0, hno, hback.readReg]
        cases produces u.cur.memwb.ctl u.cur.memwb.ins r <;> simp
    rw [hread, operandInId_behind_wb, hforward, ite_self]

/-- A source that ID resolves with is, as ID reads it, the register the older instructions leave (R332, R335). -/
theorem operandInId_eq_settled {u u1 w z : State} {r : Reg} (hback : BackEnd u u1) (halike : Alike u w)
    (hcur : w.cur = { u.cur with ifid := IfId.empty }) (hs : Settles w z.arch)
    (hz : hazard u.input.fwd u.cur u.cur.ifid.ins = false) (hreads : readsInDecode u.cur.ifid.ins = true)
    (hr : r ∈ u.cur.ifid.ins.sources) : { u with regs := u1.regs }.operandInId (some r) = z.readReg r := by
  obtain ⟨_, hex, htransfer⟩ := no_hazard_source hz hr
  obtain ⟨hidex, hload⟩ := htransfer hreads
  have hwifid : w.cur.ifid = IfId.empty := by rw [hcur]
  have hwidex : w.cur.idex = u.cur.idex := by rw [hcur]
  have hwexmem : w.cur.exmem = u.cur.exmem := by rw [hcur]
  have hregs : w.readReg r = u.readReg r := State.readReg_congr halike.regs r
  rw [← hwidex] at hidex
  rw [← hwexmem] at hload hex
  rw [operandInId_behind_wb]
  cases hfwd : u.input.fwd with
  | true =>
    have hforward : forward u.cur r (u1.readReg r) = forward w.cur r (u1.readReg r) := by rw [hcur]; rfl
    rw [if_pos rfl, hforward]
    refine hs.readReg_eq_forward hwifid hidex hload fun _ hno => ?_
    rw [halike.memwb] at hno
    rw [hback.readReg, hno, hregs]
    rfl
  | false =>
    have hno : produces w.cur.exmem.ctl w.cur.exmem.ins r = false := by
      rw [Bool.eq_false_iff]
      exact fun hp => nomatch hfwd.symm.trans (hex hp)
    rw [hs.readReg_writtenBack hwifid hidex hno, hback.readReg, halike.memwb, hregs]
    rfl

/-- The two pipelines, one cycle on, are alike behind ID. -/
theorem BackEnd.alike_next {u u1 w : State} (hback : BackEnd u u1) (halike : Alike u w)
    (hcur : w.cur = { u.cur with ifid := IfId.empty }) :
    ∃ w1, drainCycle w = .next w1 ∧ Alike u1 w1 ∧ w1.cur.exmem = u1.cur.exmem ∧ w1.cur.ifid = IfId.empty ∧
      w1.cur.idex = IdEx.empty := by
  have hwexmem : w.cur.exmem = u.cur.exmem := by rw [hcur]
  obtain ⟨w1, hw1, hwback, hwifid1, hwidex1⟩ :=
    hback.cycle_alike halike (by rw [hcur]) (.inr hwexmem) (.inr hcur)
  exact ⟨w1, hw1, hback.alike hwback halike hwexmem, hback.exmem_alike hwback halike hcur, hwifid1, hwidex1⟩

/-- An instruction that ID accepts in this cycle. -/
theorem Settles.accepted {u w : State} {b : Arch} (h : Settles u b) (halike : Alike u w)
    (hcur : w.cur = { u.cur with ifid := IfId.empty }) (hz : hazard u.input.fwd u.cur u.cur.ifid.ins = false) :
    ∃ z : State, z.input = u.input ∧ Settles w z.arch ∧ Executes z u.cur.ifid.ins u.cur.ifid.pc b ∧
      b.pc = (redirectOf u.cur.ifid.ins u.cur.ifid.pc (z.operand u.cur.ifid.ins.rs1)
        (z.operand u.cur.ifid.ins.rs2)).getD u.pc := by
  obtain ⟨u1, h1, hs1⟩ := h.cycle
  have hback := drainCycle_backEnd h1
  obtain ⟨hidex1, hifid1, hpc1, hsup⟩ := drainCycle_accepts h1 hz
  obtain ⟨w1, hw1, halike1, hexmem1, hwifid1, hwidex1⟩ := hback.alike_next halike hcur
  have htracks (q : Option Reg) (hq : ∀ r, q = some r → r ∈ u.cur.ifid.ins.sources) :
      TracksOperand w1 q ({ u with regs := u1.regs }.operandInId q) := by
    cases q with
    | none => rfl
    | some r => exact tracks_operandInId hback halike1 hexmem1 hz (hq r rfl)
  obtain ⟨z, hzinput, hsw1, hexec⟩ := hs1.in_idex halike1 hifid1 (by rw [hidex1])
    (by rw [hidex1]; exact htracks _ fun r => mem_sources_of_rs1)
    (by rw [hidex1]; exact htracks _ fun r => mem_sources_of_rs2) hwifid1 hwidex1 hexmem1
  have hsw : Settles w z.arch := hsw1.of_cycle hw1
  have hread (hreads : readsInDecode u.cur.ifid.ins = true) (q : Option Reg)
      (hq : ∀ r, q = some r → r ∈ u.cur.ifid.ins.sources) :
      { u with regs := u1.regs }.operandInId q = z.operand q := by
    cases q with
    | none => rfl
    | some r => exact operandInId_eq_settled hback halike hcur hsw hz hreads (hq r rfl)
  refine ⟨z, hzinput.trans hback.input, hsw, ?_, ?_⟩
  · rw [hidex1] at hexec
    exact hexec
  · rw [hs1.pc hifid1, hpc1, hidex1]
    exact congrArg (·.getD u.pc) (redirectOf_congr hsup _ fun hreads =>
      ⟨hread hreads _ fun r => mem_sources_of_rs1, hread hreads _ fun r => mem_sources_of_rs2⟩)

/-- In IF/ID an instruction has all of its work left, whatever stalls delay it. -/
theorem SettlesIn.in_ifid {k : Nat} {u w : State} {b : Arch} (h : SettlesIn k u b) (halike : Alike u w)
    (hcur : w.cur = { u.cur with ifid := IfId.empty }) :
    ∃ z : State, z.input = u.input ∧ Settles w z.arch ∧ Executes z u.cur.ifid.ins u.cur.ifid.pc b ∧
      b.pc = (redirectOf u.cur.ifid.ins u.cur.ifid.pc (z.operand u.cur.ifid.ins.rs1)
        (z.operand u.cur.ifid.ins.rs2)).getD u.pc := by
  induction k generalizing u w with
  | zero =>
    obtain ⟨t, ht, hempty, _⟩ := id h
    obtain rfl := Host.Outcome.next.inj ht
    exact Settles.accepted ⟨0, h⟩ halike hcur (hazard_of_ifid_empty (by rw [hempty]; rfl))
  | succ k ih =>
    cases hz : hazard u.input.fwd u.cur u.cur.ifid.ins with
    | false => exact Settles.accepted ⟨k + 1, h⟩ halike hcur hz
    | true =>
      obtain ⟨u1, h1, hs1⟩ := settlesIn_succ_iff.1 h
      have hback := drainCycle_backEnd h1
      obtain ⟨hidex1, hifid1, hpc1⟩ := drainCycle_stalls h1 hz
      obtain ⟨w1, hw1, halike1, hexmem1, hwifid1, hwidex1⟩ := hback.alike_next halike hcur
      have hcur1 := Latches.eq_but_ifid hwifid1 (hwidex1.trans hidex1.symm) hexmem1 halike1.memwb
      obtain ⟨z, hzinput, hsw1, hexec, hpc⟩ := ih hs1 halike1 hcur1
      rw [hifid1] at hexec hpc
      rw [hpc1] at hpc
      exact ⟨z, hzinput.trans hback.input, hsw1.of_cycle hw1, hexec, hpc⟩

end Sys2Proof.Machine
end

section
/-! O59: the pipeline matches the sequential reading (50_pipeline.md R338). A cycle is a drain cycle with, where it
fetches, one instruction more in IF/ID. -/

namespace Sys2Proof.Machine

theorem State.setPc_of_pc {s : State} {v : Word} (h : s.pc = v) : s.setPc v = s := by
  rw [← h]
  rfl

/-- A cycle that fetches nothing is a drain cycle (R340). -/
theorem drainCycle_of_step {s t : State} (h : step s = .next t) (hdec : decoded s.cur.ifid.ins = true)
    (hf : fetches s = false) : drainCycle s = .next t := by
  have hcycle := (step_cases h).2
  rw [oneCycle_eq_backStages] at hcycle
  obtain ⟨s3, hb, hcycle⟩ := andThen_eq_next hcycle
  obtain ⟨s4, hid, hcycle⟩ := andThen_eq_next hcycle
  obtain ⟨s5, hif, ht⟩ := andThen_eq_next hcycle
  have hback := backStages_next hb
  have hdecision : ifStage s4 = .next (holdOrSquash s4) ∧
      nextPc s4.stalled s4.redirect s4.pc = s4.redirect.getD s4.pc := by
    cases hz : hazard s.input.fwd s.cur s.cur.ifid.ins with
    | true =>
      obtain ⟨hstalled, hredirect⟩ := idStage_stalls hid (hback.hazard.trans hz)
      rw [hstalled, hredirect]
      exact ⟨ifStage_of_stalled hstalled, rfl⟩
    | false =>
      have hr : redirects s.cur.ifid.ins = true := by simpa [fetches, hz] using hf
      obtain ⟨_, _, hredirect⟩ := idStage_accepts hid (hback.hazard.trans hz)
      have hsome : s4.redirect.isSome = true := by
        rw [hredirect, hback.cur, redirectOf_isSome hdec, hr]
      obtain ⟨target, htarget⟩ := Option.isSome_iff_exists.1 hsome
      rw [htarget]
      exact ⟨ifStage_of_redirect hsome, rfl⟩
  obtain rfl := Host.Outcome.next.inj (hdecision.1.symm.trans hif)
  obtain rfl := Host.Outcome.next.inj ht
  rw [drainCycle_eq_backStages, hb, andThen_next, hid, andThen_next]
  exact congrArg Host.Outcome.next (State.setPc_of_pc (by simpa using hdecision.2))

/-- Behind a cycle that fetches nothing five drain cycles empty the pipeline. -/
theorem clearsIn_five_of_no_fetch {s t : State} (h : step s = .next t) (hdec : decoded s.cur.ifid.ins = true)
    (hf : fetches s = false) : ClearsIn 5 t := by
  have hdrain := drainCycle_of_step h hdec hf
  cases hz : hazard s.input.fwd s.cur s.cur.ifid.ins with
  | true => exact clearsIn_five (drainCycle_stalls hdrain hz).1
  | false =>
    refine clearsIn_succ fun u hu => clearsIn_four (hazard_of_ifid_empty ?_)
    exact (drainCycle_of_ifid_empty hu (drainCycle_accepts hdrain hz).2.1).1

/-- A cycle that fetches leaves the pipeline of a drain cycle, but for the fetched instruction and pc. -/
theorem drainCycle_of_fetching_step {s t : State} (h : step s = .next t) (hf : fetches s = true) :
    t.cur.ifid = fetched s ∧ t.pc = s.pc + 4 ∧ s.fetchFaults s.pc = false ∧
    ∃ w, drainCycle s = .next w ∧ Alike t w ∧ w.cur = { t.cur with ifid := IfId.empty } ∧ w.pc = s.pc := by
  obtain ⟨hz, hr⟩ := (fetches_iff s).1 hf
  have hsup := step_supported_ifid h hz
  have hnone := redirectOf_eq_none hsup hr s.cur.ifid.pc
  obtain ⟨hidex, hpc⟩ := step_accepts h hz
  have hback := step_backEnd h
  obtain ⟨hsupx, hsupm, hsupw⟩ := hback.supported_behind_id
  obtain ⟨w, hw⟩ := drainCycle_isNext hsupw hsupm hsupx (by rw [hback.mem]; exact Option.some_ne_none _)
    (by rw [hback.ex]; exact Option.some_ne_none _) hsup
  have hwback := drainCycle_backEnd hw
  obtain ⟨hwidex, hwifid, hwpc, _⟩ := drainCycle_accepts hw hz
  have halike : Alike t w := hback.alike hwback ⟨rfl, rfl, rfl, rfl, rfl⟩ rfl
  have hexmem : w.cur.exmem = t.cur.exmem := Option.some.inj (hwback.ex.symm.trans hback.ex)
  have hidexEq : w.cur.idex = t.cur.idex := by rw [hwidex, hidex, halike.regs]
  have hfault : s.fetchFaults s.pc = false := by
    obtain ⟨s4, s5, hif, _, hs4, hredirect⟩ := step_ifStage h hz
    rw [hnone] at hredirect
    have hstalled : s4.stalled = false := by rw [hs4]
    rcases ifStage_cases hif with ⟨hskip, _⟩ | ⟨_, _, hno, _⟩
    · simp [hstalled, hredirect] at hskip
    · rw [hs4] at hno
      exact hno
  refine ⟨?_, ?_, hfault, w, hw, halike, Latches.eq_but_ifid hwifid hidexEq hexmem halike.memwb, ?_⟩
  · rw [step_ifid h hz, hnone]
    rfl
  · rw [hpc, hnone]
    rfl
  · rw [hwpc, hnone]
    rfl

theorem drain_input {k : Nat} {s t : State} (h : drain k s = .next t) : t.input = s.input := by
  induction k generalizing s with
  | zero => rw [Host.Outcome.next.inj h]
  | succ k ih =>
    obtain ⟨s1, h1, h2⟩ := andThen_eq_next h
    exact (ih h2).trans (drainCycle_backEnd h1).input

/-- Settles O59. Where the cycle fetches, the fetched instruction is the youngest of the pipeline after it, and the
rest of that pipeline is the one a drain cycle leaves; where it does not, it is a drain cycle itself. -/
theorem pipelineMatchesSequentialReading : Obligations.PipelineMatchesSequentialReading := by
  unfold Obligations.PipelineMatchesSequentialReading
  intro s t t' hinv hstep hdrain
  have hsettles : SettlesIn 6 t t'.arch := ⟨t', hdrain, clearsIn_six t t' hdrain, rfl⟩
  cases hf : fetches s with
  | false =>
    have hcycle := drainCycle_of_step hstep hinv.decoded_ifid hf
    have hin : SettlesIn 6 s t'.arch := settlesIn_succ_iff.2 ⟨t, hcycle,
      Settles.settlesIn ⟨6, hsettles⟩ (clearsIn_five_of_no_fetch hstep hinv.decoded_ifid hf)⟩
    obtain ⟨s', hs', _, harch⟩ := hin
    exact ⟨s', hs', nofun, fun _ => harch⟩
  | true =>
    obtain ⟨hifid, hpc, hfault, w, hw, halike, hcur, hwpc⟩ := drainCycle_of_fetching_step hstep hf
    obtain ⟨z, hzinput, hsw, hexec, hpc'⟩ := hsettles.in_ifid halike hcur
    obtain ⟨s', hs', _, harch⟩ := (hsw.of_cycle hw).settlesIn (clearsIn_six s)
    have hinput' : s'.input = s.input := drain_input hs'
    have hzs : z.input = s.input := hzinput.trans (step_input hstep)
    have hspc : s'.pc = s.pc := by
      have hzpc : z.arch.pc = w.pc := hsw.pc (by rw [hcur])
      rw [← harch] at hzpc
      exact hzpc.trans hwpc
    have hword : s'.wordAt s'.pc = s.wordAt s.pc := by
      simp only [State.wordAt, hinput', hspc]
    have hnofault : s'.fetchFaults s'.pc = false := by
      rw [← hfault, hspc]
      simp only [State.fetchFaults, hinput']
    rw [hifid, fetched, ← hspc] at hexec hpc'
    rw [hpc, ← hspc] at hpc'
    obtain ⟨e, he, hearch⟩ := runIn_whole_of_executes (hinput'.trans hzs.symm) harch hexec hpc'
    refine ⟨s', hs', fun _ => ⟨e, ?_, hearch⟩, nofun⟩
    rw [seqStep, hnofault, hword, ← hspc]
    exact he

end Sys2Proof.Machine
end

section
/-! O32: OOB_POLICY = fault (60_exceptions.md R384). Under the ControlUnit's signals MEM makes the instruction's own
data access, which `State.accessed_eq_none_iff` says when fails; WB before it raises nothing. -/

namespace Sys2Proof.Machine

/-- Where MEM's signals are those of the instruction, its part in MEM is its own data access, at EX/MEM's address
(50_pipeline.md R302). -/
theorem exec_mem_of_signalTable {i : Instr} {s : State} (hact : s.activity = .mem)
    (hctl : s.cur.exmem.ctl = signalTable i) :
    ∃ w, exec i s = memoryAccess w s ∧
      accessInMem w s = s.access i.loadKind i.storeKind s.cur.exmem.aluResult s.storeValue := by
  obtain ⟨w, hexec, _, hload, hstore⟩ := exec_eq_perform i
  refine ⟨w, by simp only [hexec, perform, hact], ?_⟩
  rw [accessInMem, hctl, signalTable_memRead, signalTable_memWrite, hload, hstore]
  congr 1
  · cases i.loadKind <;> rfl
  · cases i.storeKind <;> rfl

theorem memoryAccess_of_none {w : Work} {s : State} (h : accessInMem w s = none) :
    memoryAccess w s = .fault (.outOfRange ⟨s.cycle, s.cur.exmem.pc, some s.cur.exmem.ins.raw⟩) := by
  simp only [memoryAccess, h]

theorem memoryAccess_of_ne_none {w : Work} {s : State} (h : accessInMem w s ≠ none) :
    ∃ t, memoryAccess w s = .next t := by
  obtain ⟨⟨v, t⟩, ht⟩ := Option.ne_none_iff_exists'.1 h
  simp only [memoryAccess, ht]
  exact ⟨_, rfl⟩

/-- A data access has no outcome exactly out of range under OOB_POLICY = fault (R384). -/
theorem State.access_eq_none_iff (s : State) {i : Instr} {n : Nat} (hsize : accessSize i = some n) (ea d : Word) :
    s.access i.loadKind i.storeKind ea d = none ↔
      s.input.oobPolicy = .fault ∧ Config.memSize < ea.toNat + n := by
  rw [← Option.map_eq_none_iff, ← State.accessed, State.accessed_eq_none_iff, hsize]
  simp

/-- A fault of MEM ends the cycle behind WB (50_pipeline.md R353). -/
theorem step_of_memStage_fault {s s1 : State} {r : Fault} (hmark : s.mark = none) (hwb : wbStage s = .next s1)
    (hmem : memStage s1 = .fault r) : step s = .fault r := by
  rw [step_of_unmarked hmark, oneCycle, hwb, andThen_next, hmem, andThen_fault]

/-- Settles O32: MEM faults exactly where the access it makes is out of range, and its fault is the cycle's. -/
theorem outOfRangeFaultsUnderTheOption : Obligations.OutOfRangeFaultsUnderTheOption := by
  unfold Obligations.OutOfRangeFaultsUnderTheOption
  refine ⟨fun i n s hact hoob hsize hctl => ?_, fun s s1 hmark hwb r hmem => step_of_memStage_fault hmark hwb hmem,
    rfl⟩
  obtain ⟨w, hexec, haccess⟩ := exec_mem_of_signalTable hact hctl
  have hnone : accessInMem w s = none ↔ Config.memSize < s.cur.exmem.aluResult.toNat + n := by
    rw [haccess, State.access_eq_none_iff s hsize, hoob, eq_self, true_and]
  rw [hexec]
  exact ⟨fun hout => memoryAccess_of_none (hnone.2 hout),
    fun hin => memoryAccess_of_ne_none fun h => absurd (hnone.1 h) (Nat.not_lt.2 hin)⟩

end Sys2Proof.Machine
end

section
/-! O2: decoding an encoded instruction gives it back (30_encoding.md R101 to R109). Each encoder puts the fields where
the decoder reads them, and a well-formed immediate is the extension of its field. -/

namespace Sys2Proof

open Laws.EncodedOpcode (opcodeOf_append)

/-! ## The fields of an encoded word (R102, R103) -/

/-- The fields of a word that is written as the row of its six fields. -/
theorem fields_append (f7 : BitVec 7) (rs2 rs1 : Reg) (f3 : BitVec 3) (rd : Reg) (op : BitVec 7) :
    rdOf (f7 ++ rs2 ++ rs1 ++ f3 ++ rd ++ op) = rd ∧ funct3Of (f7 ++ rs2 ++ rs1 ++ f3 ++ rd ++ op) = f3 ∧
    rs1Of (f7 ++ rs2 ++ rs1 ++ f3 ++ rd ++ op) = rs1 ∧ rs2Of (f7 ++ rs2 ++ rs1 ++ f3 ++ rd ++ op) = rs2 ∧
    funct7Of (f7 ++ rs2 ++ rs1 ++ f3 ++ rd ++ op) = f7 := by
  refine ⟨?_, ?_, ?_, ?_, ?_⟩
  all_goals
    apply BitVec.eq_of_getLsbD_eq
    intro k hk
    simp only [rdOf, funct3Of, rs1Of, rs2Of, funct7Of, BitVec.getLsbD_append, BitVec.getLsbD_extractLsb']
    grind

theorem fields_encodeI (op : BitVec 7) (f3 : BitVec 3) (rd rs1 : Reg) (imm : BitVec 12) :
    rdOf (encodeI op f3 rd rs1 imm) = rd ∧ funct3Of (encodeI op f3 rd rs1 imm) = f3 ∧
    rs1Of (encodeI op f3 rd rs1 imm) = rs1 ∧ immI (encodeI op f3 rd rs1 imm) = imm.signExtend 32 := by
  refine ⟨?_, ?_, ?_, congrArg (BitVec.signExtend 32) ?_⟩
  all_goals
    apply BitVec.eq_of_getLsbD_eq
    intro k hk
    simp only [encodeI, rdOf, funct3Of, rs1Of, BitVec.getLsbD_append, BitVec.getLsbD_extractLsb']
    grind

theorem immS_encodeS (f3 : BitVec 3) (rs1 rs2 : Reg) (imm : Word) :
    immS (encodeS f3 rs1 rs2 imm) = (imm.extractLsb' 0 12).signExtend 32 := by
  obtain ⟨hlow, _, _, _, hhigh⟩ := fields_append (imm.extractLsb' 5 7) rs2 rs1 f3 (imm.extractLsb' 0 5) 0x23#7
  have himm : immS (encodeS f3 rs1 rs2 imm) = (imm.extractLsb' 5 7 ++ imm.extractLsb' 0 5 : BitVec 12).signExtend 32 :=
    congrArg₂ (fun x y => (x ++ y : BitVec 12).signExtend 32) hhigh hlow
  rw [himm, BitVec.extractLsb'_append_extractLsb'_eq_extractLsb' (by omega)]

theorem fields_encodeB (f3 : BitVec 3) (rs1 rs2 : Reg) (imm : Word) :
    funct3Of (encodeB f3 rs1 rs2 imm) = f3 ∧ rs1Of (encodeB f3 rs1 rs2 imm) = rs1 ∧
    rs2Of (encodeB f3 rs1 rs2 imm) = rs2 := by
  refine ⟨?_, ?_, ?_⟩
  all_goals
    apply BitVec.eq_of_getLsbD_eq
    intro k hk
    simp only [encodeB, funct3Of, rs1Of, rs2Of, BitVec.getLsbD_append, BitVec.getLsbD_extractLsb']
    grind

theorem fields_encodeU (op : BitVec 7) (rd : Reg) (imm : Word) :
    rdOf (encodeU op rd imm) = rd ∧ immU (encodeU op rd imm) = imm.extractLsb' 12 20 ++ 0#12 := by
  refine ⟨?_, congrArg (· ++ 0#12) ?_⟩
  all_goals
    apply BitVec.eq_of_getLsbD_eq
    intro k hk
    simp only [encodeU, rdOf, BitVec.getLsbD_append, BitVec.getLsbD_extractLsb']
    grind

theorem rdOf_encodeJ (rd : Reg) (imm : Word) : rdOf (encodeJ rd imm) = rd := by
  apply BitVec.eq_of_getLsbD_eq
  intro k hk
  simp only [encodeJ, rdOf, BitVec.getLsbD_append, BitVec.getLsbD_extractLsb']
  grind

/-! ## Immediates that fit their format (R104 to R108) -/

theorem signExtend_of_fitsTwelve {imm : Word} (h : fitsTwelve imm = true) :
    (imm.extractLsb' 0 12).signExtend 32 = imm := eq_of_beq h

theorem immB_encodeB {imm : Word} (h : fitsBranch imm = true) (f3 : BitVec 3) (rs1 rs2 : Reg) :
    immB (encodeB f3 rs1 rs2 imm) = imm := by
  rw [fitsBranch, Bool.and_eq_true, beq_iff_eq, beq_iff_eq] at h
  obtain ⟨hext, hlow⟩ := h
  have hbit := congrArg (·.getLsbD 0) hlow
  simp only [BitVec.getLsbD_extractLsb'] at hbit
  refine Eq.trans ?_ hext
  apply BitVec.eq_of_getLsbD_eq
  intro k hk
  simp only [encodeB, immB, BitVec.getLsbD_append, BitVec.getLsbD_extractLsb', BitVec.getLsbD_signExtend,
    BitVec.msb_eq_getLsbD_last]
  grind

theorem immJ_encodeJ {imm : Word} (h : fitsJump imm = true) (rd : Reg) : immJ (encodeJ rd imm) = imm := by
  rw [fitsJump, Bool.and_eq_true, beq_iff_eq, beq_iff_eq] at h
  obtain ⟨hext, hlow⟩ := h
  have hbit := congrArg (·.getLsbD 0) hlow
  simp only [BitVec.getLsbD_extractLsb'] at hbit
  refine Eq.trans ?_ hext
  apply BitVec.eq_of_getLsbD_eq
  intro k hk
  simp only [encodeJ, immJ, BitVec.getLsbD_append, BitVec.getLsbD_extractLsb', BitVec.getLsbD_signExtend,
    BitVec.msb_eq_getLsbD_last]
  grind

theorem append_of_fitsUpper {imm : Word} (h : fitsUpper imm = true) : imm.extractLsb' 12 20 ++ 0#12 = imm := by
  have hlow : imm.extractLsb' 0 12 = 0#12 := eq_of_beq h
  rw [← hlow, BitVec.extractLsb'_append_extractLsb'_eq_extractLsb' (by omega)]
  exact BitVec.extractLsb'_eq_self

/-! ## The decoder on encoded words (R111, R147) -/

theorem decode_encodeR (f7 : BitVec 7) (f3 : BitVec 3) (rd rs1 rs2 : Reg) :
    decode (encodeR f7 f3 rd rs1 rs2) = rTypeInstr rd rs1 rs2 f3 f7 := by
  have hop : opcodeOf (encodeR f7 f3 rd rs1 rs2) = 0x33 := opcodeOf_append _ _
  obtain ⟨hrd, hf3, hrs1, hrs2, hf7⟩ := fields_append f7 rs2 rs1 f3 rd 0x33#7
  rw [decode_r hop, encodeR, hrd, hf3, hrs1, hrs2, hf7]

theorem opcodeOf_encodeI (op : BitVec 7) (f3 : BitVec 3) (rd rs1 : Reg) (imm : BitVec 12) :
    opcodeOf (encodeI op f3 rd rs1 imm) = op := opcodeOf_append _ _

section
variable {imm : Word}

theorem decode_encodeArith (f3 : BitVec 3) (rd rs1 : Reg) (h : fitsTwelve imm = true) :
    decode (encodeArith f3 rd rs1 imm) = .ok (immediateInstr (encodeArith f3 rd rs1 imm) rd rs1 f3 imm) := by
  obtain ⟨hrd, hf3, hrs1, himm⟩ := fields_encodeI 0x13 f3 rd rs1 (imm.extractLsb' 0 12)
  rw [encodeArith, decode_immediate (opcodeOf_encodeI _ _ _ _ _), hrd, hf3, hrs1, himm, signExtend_of_fitsTwelve h]

theorem decode_encodeI_load (f3 : BitVec 3) (rd rs1 : Reg) (h : fitsTwelve imm = true) :
    decode (encodeI 0x03 f3 rd rs1 (imm.extractLsb' 0 12)) = loadInstr rd rs1 f3 imm := by
  obtain ⟨hrd, hf3, hrs1, himm⟩ := fields_encodeI 0x03 f3 rd rs1 (imm.extractLsb' 0 12)
  rw [decode_load (opcodeOf_encodeI _ _ _ _ _), hrd, hf3, hrs1, himm, signExtend_of_fitsTwelve h]

theorem decode_encodeI_jalr (f3 : BitVec 3) (rd rs1 : Reg) (h : fitsTwelve imm = true) :
    decode (encodeI 0x67 f3 rd rs1 (imm.extractLsb' 0 12)) = .ok (.jalr rd rs1 imm) := by
  obtain ⟨hrd, _, hrs1, himm⟩ := fields_encodeI 0x67 f3 rd rs1 (imm.extractLsb' 0 12)
  rw [decode_jalr (opcodeOf_encodeI _ _ _ _ _), hrd, hrs1, himm, signExtend_of_fitsTwelve h]

theorem decode_encodeS (f3 : BitVec 3) (rs1 rs2 : Reg) (h : fitsTwelve imm = true) :
    decode (encodeS f3 rs1 rs2 imm) = storeInstr rs1 rs2 f3 imm := by
  have hop : opcodeOf (encodeS f3 rs1 rs2 imm) = 0x23 := opcodeOf_append _ _
  obtain ⟨_, hf3, hrs1, hrs2, _⟩ := fields_append (imm.extractLsb' 5 7) rs2 rs1 f3 (imm.extractLsb' 0 5) 0x23#7
  rw [decode_store hop, immS_encodeS, signExtend_of_fitsTwelve h, encodeS, hf3, hrs1, hrs2]

theorem decode_encodeB (f3 : BitVec 3) (rs1 rs2 : Reg) (h : fitsBranch imm = true) :
    decode (encodeB f3 rs1 rs2 imm) = branchInstr rs1 rs2 f3 imm := by
  have hop : opcodeOf (encodeB f3 rs1 rs2 imm) = 0x63 := opcodeOf_append _ _
  obtain ⟨hf3, hrs1, hrs2⟩ := fields_encodeB f3 rs1 rs2 imm
  rw [decode_branch hop, hf3, hrs1, hrs2, immB_encodeB h]

theorem opcodeOf_encodeU (op : BitVec 7) (rd : Reg) : opcodeOf (encodeU op rd imm) = op := opcodeOf_append _ _

theorem decode_encodeU_lui (rd : Reg) (h : fitsUpper imm = true) :
    decode (encodeU 0x37 rd imm) = .ok (.lui rd imm) := by
  obtain ⟨hrd, himm⟩ := fields_encodeU 0x37 rd imm
  rw [decode_lui (opcodeOf_encodeU _ _), hrd, himm, append_of_fitsUpper h]

theorem decode_encodeU_auipc (rd : Reg) (h : fitsUpper imm = true) :
    decode (encodeU 0x17 rd imm) = .ok (.auipc rd imm) := by
  obtain ⟨hrd, himm⟩ := fields_encodeU 0x17 rd imm
  rw [decode_auipc (opcodeOf_encodeU _ _), hrd, himm, append_of_fitsUpper h]

theorem decode_encodeJ (rd : Reg) (h : fitsJump imm = true) : decode (encodeJ rd imm) = .ok (.jal rd imm) := by
  have hop : opcodeOf (encodeJ rd imm) = 0x6F := opcodeOf_append _ _
  rw [decode_jal hop, rdOf_encodeJ, immJ_encodeJ h]

end

/-- raw[30], which tells SRAI from SRLI, is bit 5 of funct7 (R123). -/
theorem bit30_eq_funct7Of (w : Word) : w.extractLsb' 30 1 = (funct7Of w).extractLsb' 5 1 := by
  apply BitVec.eq_of_getLsbD_eq
  intro k hk
  simp only [funct7Of, BitVec.getLsbD_extractLsb']
  grind

/-- The word of a shift has the amount where rs2 is, and over it the funct7 that tells SRAI from SRLI (R109). -/
theorem fields_encodeI_shift (f7 : BitVec 7) (f3 : BitVec 3) (rd rs1 : Reg) (shamt : BitVec 5) :
    funct3Of (encodeI 0x13 f3 rd rs1 (f7 ++ shamt)) = f3 ∧
    (encodeI 0x13 f3 rd rs1 (f7 ++ shamt)).extractLsb' 30 1 = f7.extractLsb' 5 1 ∧
    rdOf (encodeI 0x13 f3 rd rs1 (f7 ++ shamt)) = rd ∧ rs1Of (encodeI 0x13 f3 rd rs1 (f7 ++ shamt)) = rs1 ∧
    rs2Of (encodeI 0x13 f3 rd rs1 (f7 ++ shamt)) = shamt := by
  obtain ⟨hrd, hf3, hrs1, hrs2, hf7⟩ := fields_append f7 shamt rs1 f3 rd 0x13#7
  exact ⟨hf3, (bit30_eq_funct7Of _).trans (congrArg (BitVec.extractLsb' 5 1) hf7), hrd, hrs1, hrs2⟩

theorem decode_encode_slli (rd rs1 : Reg) (shamt : BitVec 5) :
    decode (encode (.slli rd rs1 shamt)) = .ok (.slli rd rs1 shamt) := by
  obtain ⟨hf3, _, hrd, hrs1, hrs2⟩ := fields_encodeI_shift 0x00#7 0x1 rd rs1 shamt
  rw [encode, decode_slli (opcodeOf_encodeI _ _ _ _ _) hf3, hrd, hrs1, hrs2]

theorem decode_encode_srli (rd rs1 : Reg) (shamt : BitVec 5) :
    decode (encode (.srli rd rs1 shamt)) = .ok (.srli rd rs1 shamt) := by
  obtain ⟨hf3, h30, hrd, hrs1, hrs2⟩ := fields_encodeI_shift 0x00#7 0x5 rd rs1 shamt
  rw [encode, decode_srli (opcodeOf_encodeI _ _ _ _ _) hf3 (by rw [h30]; decide), hrd, hrs1, hrs2]

theorem decode_encode_srai (rd rs1 : Reg) (shamt : BitVec 5) :
    decode (encode (.srai rd rs1 shamt)) = .ok (.srai rd rs1 shamt) := by
  obtain ⟨hf3, h30, hrd, hrs1, hrs2⟩ := fields_encodeI_shift 0x20#7 0x5 rd rs1 shamt
  rw [encode, decode_srai (opcodeOf_encodeI _ _ _ _ _) hf3 (by rw [h30]; decide), hrd, hrs1, hrs2]

/-- Settles O2, by the format that each constructor is encoded in. -/
theorem decodeUndoesEncode : Obligations.DecodeUndoesEncode := by
  unfold Obligations.DecodeUndoesEncode
  intro i h
  cases i with
  | add | sub | sll | srl | sra | mul | div => exact decode_encodeR _ _ _ _ _
  | addi | slti | sltiu | xori | ori | andi => exact decode_encodeArith _ _ _ h
  | slli rd rs1 shamt => exact decode_encode_slli rd rs1 shamt
  | srli rd rs1 shamt => exact decode_encode_srli rd rs1 shamt
  | srai rd rs1 shamt => exact decode_encode_srai rd rs1 shamt
  | lui => exact decode_encodeU_lui _ h
  | auipc => exact decode_encodeU_auipc _ h
  | lb | lh | lw | lbu | lhu => exact decode_encodeI_load _ _ _ h
  | sb | sh | sw | sd => exact decode_encodeS _ _ _ h
  | beq | bne | blt | bge | bltu | bgeu => exact decode_encodeB _ _ _ h
  | jal => exact decode_encodeJ _ h
  | jalr => exact decode_encodeI_jalr _ _ _ h
  | nop => exact decode_zero
  | unknown => rfl

end Sys2Proof
end

section
/-! O54, O55, O56 and O57: the state after construction and the invariant of the core between cycles
(70_reset_and_hazards.md R410). Every field of the invariant follows from what a step leaves of that field. -/

namespace Sys2Proof.Machine

/-! ## Construction (R410) -/

theorem memory_nil_wf : Memory.wf [] = true := rfl

theorem construct_mem_wf (input : Inputs) (regs : Regs) (mem : List Byte) :
    (State.construct input regs mem).mem.wf = true := Memory.writeBytes_wf memory_nil_wf _ _

/-- The bytes of INIT_MEM past MEM_SIZE are dropped, so nothing is listed there. -/
theorem construct_mem_bounded (input : Inputs) (regs : Regs) (mem : List Byte) :
    (State.construct input regs mem).mem.bounded = true :=
  Memory.writeBytes_bounded rfl (by rw [List.length_take]; omega)

theorem construct_read (input : Inputs) (regs : Regs) (mem : List Byte) {a : Nat} (ha : a < Config.memSize)
    (h : a < mem.length) : (State.construct input regs mem).mem.read a = mem[a] := by
  have hlen : a < (mem.take Config.memSize).length := by rw [List.length_take]; omega
  have hread := Memory.read_writeBytes_inside memory_nil_wf 0 a _ hlen
  rwa [Nat.zero_add, List.getElem_take] at hread

theorem construct_readReg (input : Inputs) (regs : Regs) (mem : List Byte) {r : Reg} (h : r ≠ 0) :
    (State.construct input regs mem).readReg r = regs[r.toNat]'r.isLt := by
  have hr : ¬r = 0#5 := h
  have hne : 0 ≠ r.toNat := fun h0 => hr (BitVec.eq_of_toNat_eq h0.symm)
  rw [State.readReg, if_neg hr]
  exact Vector.getElem_set_ne (by decide) r.isLt hne

/-- Settles O54: the fields of `State.construct`, INIT_MEM's bytes among them as a run written from address 0. -/
theorem constructionLeaves : Obligations.ConstructionLeaves := by
  unfold Obligations.ConstructionLeaves
  rintro input regs mem s rfl
  exact ⟨State.readReg_zero _, fun r hr => construct_readReg input regs mem hr, rfl,
    fun a ha h => construct_read input regs mem ha h, rfl, rfl, rfl, rfl, rfl, rfl, rfl, fun _ _ => rfl⟩

/-- Settles O56: memory is a run of bytes within MEM_SIZE, x0's slot is forced to 0, and all latches are empty. -/
theorem constructionMeetsInvariant : Obligations.ConstructionMeetsInvariant := by
  unfold Obligations.ConstructionMeetsInvariant
  intro input regs mem
  refine ⟨?_, Vector.getElem_set_self _, ⟨rfl, rfl, rfl, rfl⟩, rfl, rfl, rfl, rfl,
    ⟨fun _ => rfl, fun _ => rfl, fun _ => rfl⟩, rfl⟩
  rw [construct_mem_wf, construct_mem_bounded]
  rfl

/-- Settles O55: `State.reset` is a construction. -/
theorem resetMeetsInvariant : Obligations.ResetMeetsInvariant :=
  constructionMeetsInvariant Inputs.default (Vector.replicate 32 Config.resetRegister) []

/-! ## What MEM makes of its latch -/

theorem State.accessed_eq_some {s : State} {load : Option LoadKind} {store : Option StoreKind} {ea d v : Word}
    {m : Memory} {n : Nat} (h : s.accessed load store ea d = some (v, m, n)) :
    ∃ t, s.access load store ea d = some (v, t) ∧ t.mem = m ∧ t.draws = n := by
  obtain ⟨⟨v', t⟩, ht, heq⟩ := Option.map_eq_some_iff.1 h
  obtain ⟨rfl, hm, hn⟩ : v' = v ∧ t.mem = m ∧ t.draws = n := by simpa using heq
  exact ⟨t, ht, hm, hn⟩

/-- MEM/WB after MEM takes over EX/MEM, with the value of the instruction's own data access (R302). -/
theorem State.memOut_eq_some {s : State} {i : Instr} {x : MemWb} {m : Memory} {n : Nat}
    (hi : s.cur.exmem.ins.instr = .ok i) (hctl : s.cur.exmem.ctl = control s.cur.exmem.ins)
    (h : s.memOut = some (x, m, n)) :
    x = ⟨s.cur.exmem.ins, s.cur.exmem.pc, s.cur.exmem.id, s.cur.exmem.ctl, s.cur.exmem.aluResult, x.memData⟩ ∧
    ∃ t, s.access i.loadKind i.storeKind s.cur.exmem.aluResult s.storeValue = some (x.memData, t) ∧
      t.mem = m ∧ t.draws = n := by
  rw [State.memOut_of_instr hi hctl] at h
  obtain ⟨⟨v, m', n'⟩, hp, heq⟩ := Option.map_eq_some_iff.1 h
  obtain ⟨rfl, rfl, rfl⟩ : _ = x ∧ m' = m ∧ n' = n := by simpa using heq
  exact ⟨rfl, State.accessed_eq_some hp⟩

/-- A data access that loads nothing has the value 0 (R50). -/
theorem State.access_value_of_no_load {s t : State} {store : Option StoreKind} {ea d v : Word}
    (h : s.access none store ea d = some (v, t)) : v = 0 := by
  rcases State.access_cases h with ⟨_, hload, _⟩ | ⟨_, _, _, _, rfl⟩ | ⟨_, _, rfl, _⟩
  · cases hload
  · rfl
  · rfl

/-! ## What the log gains -/

theorem logged_cycle {log : List LogEntry} {id : Option Nat} {cycle : Nat} {n : StageName} {e : LogEntry}
    (h : e ∈ logged log id cycle n) : e ∈ log ∨ e.cycle = cycle := by
  cases id with
  | none => exact .inl h
  | some k => exact logAdd_cycle h

/-- An entry of the log after a step was there before it, or is of the step's cycle (R362). -/
theorem step_log_cycle {s t : State} (h : step s = .next t) {e : LogEntry} (he : e ∈ t.log) :
    e ∈ s.log ∨ e.cycle = s.cycle := by
  rw [step_log h] at he
  rcases logged_cycle he with he | hc
  · rcases logged_cycle he with he | hc
    · rcases logged_cycle he with he | hc
      · rcases logged_cycle he with he | hc
        · exact logged_cycle he
        · exact .inr hc
      · exact .inr hc
    · exact .inr hc
  · exact .inr hc

/-! ## Records of fetches and of accepted instructions -/

theorem decoded_decodeFetched (w : Option Word) : decoded (decodeFetched w) = true := by
  cases w with
  | none => rfl
  | some w => exact beq_iff_eq.2 (congrArg decodeRecord (decodeRecord_raw w).symm)

/-- A fetched record carries the index of the word of PROG it is, or none for a NOP and for what a misaligned fetch
reads (R341). -/
theorem labelled_fetched (s : State) : labelled s.input.prog (fetched s).ins (fetched s).pc (fetched s).id = true := by
  by_cases hid : aligned s.pc = true ∧ (decodeFetched (s.wordAt s.pc)).payload ≠ .nop
  · obtain ⟨ha, hnop⟩ := hid
    have hpc := (aligned_iff s.pc).1 ha
    have hword := wordAt_aligned s hpc
    have hfetched : (fetched s).id = some (s.pc.toNat / 4) := by simp [fetched, fetchId, ha, hnop]
    have hdiv : s.pc.toNat = 4 * (s.pc.toNat / 4) := by omega
    cases hw : s.wordAt s.pc with
    | none => simp [hw, decodeFetched, nopRecord] at hnop
    | some w =>
      rw [hfetched]
      rw [hw] at hnop hword
      simp only [labelled, fetched, hw, ← hword, decodeFetched, decodeRecord_raw, beq_self_eq_true, Bool.and_true,
        Bool.and_eq_true, bne_iff_ne, beq_iff_eq]
      exact ⟨hnop, hdiv⟩
  · have hfetched : (fetched s).id = none := by simpa [fetched, fetchId] using hid
    rw [hfetched]
    simp only [labelled, fetched, Bool.or_eq_true, beq_iff_eq, Bool.not_eq_true']
    rw [not_and_or, Bool.not_eq_true, not_not] at hid
    exact hid.symm

/-- What IF leaves in IF/ID is the fetch at pc, a squashed fetch, or what a stall holds (R340). -/
theorem step_ifid_cases {s t : State} (h : step s = .next t) :
    t.cur.ifid = fetched s ∨ t.cur.ifid = IfId.empty ∨ t.cur.ifid = s.cur.ifid := by
  cases hz : hazard s.input.fwd s.cur s.cur.ifid.ins with
  | true => exact .inr (.inr (step_stalls h hz).2)
  | false =>
    rw [step_ifid h hz]
    split
    · exact .inr (.inl rfl)
    · exact .inl rfl

/-- ID/EX after a step is a bubble, or the accepted record with its signals, and 0 for an operand it has no source
for (R312, R314). -/
theorem step_idex_cases {s t : State} (h : step s = .next t) :
    t.cur.idex = IdEx.empty ∨
    (supported s.cur.ifid.ins = true ∧ ∃ a b, (s.cur.ifid.ins.rs1 = none → a = 0) ∧ (s.cur.ifid.ins.rs2 = none → b = 0) ∧
      t.cur.idex = ⟨s.cur.ifid.ins, s.cur.ifid.pc, s.cur.ifid.id, control s.cur.ifid.ins, a, b⟩) := by
  cases hz : hazard s.input.fwd s.cur s.cur.ifid.ins with
  | true => exact .inl (step_stalls h hz).1
  | false =>
    obtain ⟨hidex, _⟩ := step_accepts h hz
    exact .inr ⟨step_supported_ifid h hz, _, _, fun hrs => by rw [hrs]; rfl, fun hrs => by rw [hrs]; rfl, hidex⟩

theorem step_between_cycles {s t : State} (h : step s = .next t) :
    t.nxt = t.cur ∧ t.stalled = false ∧ t.redirect = none ∧ t.activity = .whole := by
  obtain ⟨_, _, _, _, _, _, rfl⟩ := step_stages h
  exact ⟨rfl, rfl, rfl, rfl⟩

/-! ## The invariant -/

/-- Settles O57: each field of the invariant from what the step makes of it. A latch behind ID hands its record, signals
and id on to the next one, and IF/ID hands them to ID/EX. -/
theorem stepKeepsInvariant : Obligations.StepKeepsInvariant := by
  unfold Obligations.StepKeepsInvariant
  intro s t hinv h
  have hback := step_backEnd h
  obtain ⟨i, hi⟩ := (supported_iff _).1 hinv.supported_behind_id.2.1
  obtain ⟨hmemwb, u, haccess, hmem, _⟩ := State.memOut_eq_some hi hinv.control_exmem hback.mem
  obtain ⟨_, hexmem⟩ := State.exOut_eq_some hback.ex
  have hinput : t.input = s.input := hback.input
  have hidex := step_idex_cases h
  refine ⟨?memory, ?zero, step_between_cycles h, ?ifid, ?idex, ?exmem, ?memwb, ?unused, ?past⟩
  case memory =>
    have hm := hinv.memory
    rw [Bool.and_eq_true, decide_eq_true_eq] at hm ⊢
    rw [← hmem]
    exact ⟨State.access_wf haccess hm.1, State.access_bounded haccess hm.2⟩
  case zero =>
    have hslot : s.writtenBack.regs[0] = s.regs[0] := by
      unfold State.writtenBack
      split
      · exact State.writeDest_slot_zero s _ _
      · rfl
    rw [← hinv.zero, ← hslot]
    simp only [hback.regs]
  case ifid =>
    rw [hinput]
    rcases step_ifid_cases h with hifid | hifid | hifid
    · rw [hifid, Bool.and_eq_true, decide_eq_true_eq]
      exact ⟨decoded_decodeFetched _, labelled_fetched s⟩
    · rw [hifid]; rfl
    · rw [hifid]; exact hinv.ifid
  case idex =>
    rw [hinput]
    rcases hidex with hidex | ⟨hsup, a, b, _, _, hidex⟩
    · rw [hidex]; rfl
    · have hifid := hinv.ifid
      rw [Bool.and_eq_true] at hifid
      simp [hidex, issued, hsup, hifid.1, hifid.2]
  case exmem =>
    rw [hinput, hexmem]
    exact hinv.idex
  case memwb =>
    rw [hinput, hmemwb]
    exact hinv.exmem
  case unused =>
    refine ⟨?_, ?_, fun hread => ?_⟩
    · rcases hidex with hidex | ⟨_, a, b, ha, _, hidex⟩
      · rw [hidex]; exact fun _ => rfl
      · rw [hidex]; exact ha
    · rcases hidex with hidex | ⟨_, a, b, _, hb, hidex⟩
      · rw [hidex]; exact fun _ => rfl
      · rw [hidex]; exact hb
    · have hload : i.loadKind = none := by
        rw [hmemwb, hinv.control_exmem, control_of_instr hi, signalTable_memRead] at hread
        simpa using hread
      rw [hload] at haccess
      exact State.access_value_of_no_load haccess
  case past =>
    rw [List.all_eq_true]
    intro e he
    rw [decide_eq_true_eq, step_cycle h]
    rcases step_log_cycle h he with hold | hnow
    · have := List.all_eq_true.1 hinv.past e hold
      rw [decide_eq_true_eq] at this
      omega
    · omega

/-! ## Other columns of the log -/

theorem logCell_logged_other_cycle {log : List LogEntry} {id : Option Nat} {cycle c : Nat} {n : StageName}
    (h : c ≠ cycle) (k : Nat) : logCell (logged log id cycle n) k c = logCell log k c := by
  cases id with
  | none => rfl
  | some j => exact logCell_logAdd_other fun hj => h hj.2.symm

/-- Settles O49: a step adds five names, all in the cells of its own cycle. -/
theorem otherCyclesKeepTheirCells : Obligations.OtherCyclesKeepTheirCells := by
  unfold Obligations.OtherCyclesKeepTheirCells
  intro s t id c h hc
  rw [step_log h]
  simp only [logCell_logged_other_cycle hc]

end Sys2Proof.Machine
end

section
/-! O1, O3, O6, O7 and O8: what the decoder answers, word by word and record by record (30_encoding.md R100 to R131). -/

namespace Sys2Proof

/-- Settles O1, by running the decoder on the nine words. -/
theorem specWordsDecode : Obligations.SpecWordsDecode := by
  unfold Obligations.SpecWordsDecode
  decide

/-! ## Decoded immediates fit their format (R104 to R108) -/

/-- The extension of a field is the extension of its own low bits. -/
theorem signExtend_extractLsb'_signExtend {n : Nat} (x : BitVec n) (h : n ≤ 32) :
    ((x.signExtend 32).extractLsb' 0 n).signExtend 32 = x.signExtend 32 := by
  have hfield : (x.signExtend 32).extractLsb' 0 n = x := by
    apply BitVec.eq_of_getLsbD_eq
    intro k hk
    have hk32 : k < 32 := by omega
    rw [BitVec.getLsbD_extractLsb', BitVec.getLsbD_signExtend]
    simp [hk, hk32]
  rw [hfield]

theorem fitsTwelve_signExtend (x : BitVec 12) : fitsTwelve (x.signExtend 32) = true :=
  beq_iff_eq.2 (signExtend_extractLsb'_signExtend x (by decide))

/-- Bit 0 of an extended field that ends in a zero is zero. -/
theorem bit0_signExtend_append_zero {n : Nat} (x : BitVec n) :
    ((x ++ 0#1).signExtend 32).extractLsb' 0 1 = 0#1 := by
  apply BitVec.eq_of_getLsbD_eq
  intro k hk
  obtain rfl : k = 0 := by omega
  rw [BitVec.getLsbD_extractLsb', BitVec.getLsbD_signExtend, BitVec.getLsbD_append]
  simp

theorem fitsBranch_immB (w : Word) : fitsBranch (immB w) = true := by
  rw [fitsBranch, Bool.and_eq_true, beq_iff_eq, beq_iff_eq]
  exact ⟨signExtend_extractLsb'_signExtend _ (by decide), bit0_signExtend_append_zero _⟩

theorem fitsJump_immJ (w : Word) : fitsJump (immJ w) = true := by
  rw [fitsJump, Bool.and_eq_true, beq_iff_eq, beq_iff_eq]
  exact ⟨signExtend_extractLsb'_signExtend _ (by decide), bit0_signExtend_append_zero _⟩

theorem fitsUpper_immU (w : Word) : fitsUpper (immU w) = true :=
  beq_iff_eq.2 BitVec.extractLsb'_append_eq_right

/-! Whether an instruction is well formed depends on its class and its immediate. -/

theorem wellFormed_of_rTypeInstr {rd rs1 rs2 : Reg} {f3 : BitVec 3} {f7 : BitVec 7} {i : Instr}
    (h : rTypeInstr rd rs1 rs2 f3 f7 = .ok i) : i.wellFormed = true := by
  unfold rTypeInstr at h
  split_ifs at h <;> cases h <;> rfl

theorem wellFormed_immediateInstr {imm : Word} (himm : fitsTwelve imm = true) (raw : Word) (rd rs1 : Reg)
    (f3 : BitVec 3) : (immediateInstr raw rd rs1 f3 imm).wellFormed = true := by
  unfold immediateInstr
  split_ifs <;> simp [Instr.wellFormed, himm]

theorem wellFormed_of_loadInstr {rd rs1 : Reg} {f3 : BitVec 3} {imm : Word} {i : Instr}
    (himm : fitsTwelve imm = true) (h : loadInstr rd rs1 f3 imm = .ok i) : i.wellFormed = true := by
  unfold loadInstr at h
  split_ifs at h <;> cases h <;> exact himm

theorem wellFormed_of_storeInstr {rs1 rs2 : Reg} {f3 : BitVec 3} {imm : Word} {i : Instr}
    (himm : fitsTwelve imm = true) (h : storeInstr rs1 rs2 f3 imm = .ok i) : i.wellFormed = true := by
  unfold storeInstr at h
  split_ifs at h <;> cases h <;> exact himm

theorem wellFormed_of_branchInstr {rs1 rs2 : Reg} {f3 : BitVec 3} {imm : Word} {i : Instr}
    (himm : fitsBranch imm = true) (h : branchInstr rs1 rs2 f3 imm = .ok i) : i.wellFormed = true := by
  unfold branchInstr at h
  split_ifs at h <;> cases h <;> exact himm

/-- Settles O3, by the opcode of the word. -/
theorem decodedInstructionsAreWellFormed : Obligations.DecodedInstructionsAreWellFormed := by
  unfold Obligations.DecodedInstructionsAreWellFormed
  intro w i h
  rcases opcodeOf_cases w with hop | hop | hop | hop | hop | hop | hop | hop | hop | hop
  · exact wellFormed_of_rTypeInstr ((decode_r hop).symm.trans h)
  · obtain rfl := Except.ok.inj ((decode_immediate hop).symm.trans h)
    exact wellFormed_immediateInstr (fitsTwelve_signExtend _) _ _ _ _
  · exact wellFormed_of_loadInstr (fitsTwelve_signExtend _) ((decode_load hop).symm.trans h)
  · obtain rfl := Except.ok.inj ((decode_jalr hop).symm.trans h)
    exact fitsTwelve_signExtend _
  · exact wellFormed_of_storeInstr (fitsTwelve_signExtend _) ((decode_store hop).symm.trans h)
  · exact wellFormed_of_branchInstr (fitsBranch_immB w) ((decode_branch hop).symm.trans h)
  · obtain rfl := Except.ok.inj ((decode_lui hop).symm.trans h)
    exact fitsUpper_immU w
  · obtain rfl := Except.ok.inj ((decode_auipc hop).symm.trans h)
    exact fitsUpper_immU w
  · obtain rfl := Except.ok.inj ((decode_jal hop).symm.trans h)
    exact fitsJump_immJ w
  · rw [decode_unrecognised hop] at h
    split_ifs at h <;> cases h <;> rfl

/-! ## The record behind an instruction -/

/-- A record of a format that reads an opcode stands for an instruction with the record's own operands, never for
UNKNOWN. -/
theorem operands_of_instr {q : Record} {i : Instr} (h : q.instr = .ok i) :
    q.sources = i.sources ∧ q.rd = i.dest ∧ (i = .unknown → q.payload = .unknown) := by
  obtain ⟨raw, op, payload⟩ := q
  cases payload with
  | r =>
    simp only [Record.instr, rTypeInstr] at h
    split_ifs at h <;> cases h <;> exact ⟨rfl, rfl, nofun⟩
  | i =>
    simp only [Record.instr, immediateInstr, loadInstr] at h
    split_ifs at h <;> cases h <;> exact ⟨rfl, rfl, nofun⟩
  | s =>
    simp only [Record.instr, storeInstr] at h
    split_ifs at h <;> cases h <;> exact ⟨rfl, rfl, nofun⟩
  | b =>
    simp only [Record.instr, branchInstr] at h
    split_ifs at h <;> cases h <;> exact ⟨rfl, rfl, nofun⟩
  | u =>
    simp only [Record.instr] at h
    split_ifs at h <;> cases h <;> exact ⟨rfl, rfl, nofun⟩
  | j =>
    simp only [Record.instr] at h
    split_ifs at h
    cases h
    exact ⟨rfl, rfl, nofun⟩
  | nop => cases h; exact ⟨rfl, rfl, nofun⟩
  | unknown => cases h; exact ⟨rfl, rfl, fun _ => rfl⟩

/-- Settles O8: a decoded record has its instruction's operands. -/
theorem sourcesAndDestinationByFormat : Obligations.SourcesAndDestinationByFormat := by
  unfold Obligations.SourcesAndDestinationByFormat
  intro w i h
  obtain ⟨hsources, hrd, _⟩ := operands_of_instr h
  exact ⟨hsources, hrd⟩

/-! ## The inert words (R110, R113) -/

/-- The decoder's payload is UNKNOWN only outside the nine opcodes (R111). -/
theorem opcodeOf_of_payloadOf_unknown {w : Word} (h : payloadOf w = .unknown) :
    opcodeOf w ∉ [0x33#7, 0x13, 0x03, 0x67, 0x23, 0x63, 0x37, 0x17, 0x6F] := by
  unfold payloadOf at h
  split_ifs at h
  simp only [List.mem_cons, List.not_mem_nil, or_false]
  tauto

/-- A word that decodes to UNKNOWN has the payload UNKNOWN, which the zero word has not. -/
theorem decode_unknown_iff (w : Word) : decode w = .ok .unknown ↔
    w ≠ 0 ∧ opcodeOf w ∉ [0x33#7, 0x13, 0x03, 0x67, 0x23, 0x63, 0x37, 0x17, 0x6F] := by
  constructor
  · intro h
    obtain ⟨_, _, hpayload⟩ := operands_of_instr h
    have hne : w ≠ 0 := by
      rintro rfl
      cases h
    rw [decodeRecord_of_ne_zero hne] at hpayload
    exact ⟨hne, opcodeOf_of_payloadOf_unknown (hpayload rfl)⟩
  · rintro ⟨hne, hop⟩
    rw [decode_unrecognised hop, if_neg hne]

/-- The encoding of NOP, which ignores no bit, is the zero word. -/
theorem decode_nop_iff (w : Word) : decode w = .ok .nop ↔ w = 0 := by
  constructor
  · intro h
    have hencode := and_not_ignoredBits_eq_encode h nofun
    exact BitVec.and_allOnes.symm.trans hencode
  · rintro rfl
    exact decode_zero

/-- Settles O6. -/
theorem inertWords : Obligations.InertWords := by
  unfold Obligations.InertWords
  exact fun w => ⟨decode_nop_iff w, decode_unknown_iff w⟩

namespace Machine

/-! ## The ControlUnit by opcode (R121 to R130) -/

theorem control_r {w : Word} (h : opcodeOf w = 0x33) :
    control (decodeRecord w) = ⟨true, false, false, false, rTypeAluOp (funct7Of w) (funct3Of w)⟩ := by
  simp [decodeRecord_of_ne_zero (ne_zero_of_opcode h (by decide)), payloadOf, control, h]

theorem control_load {w : Word} (h : opcodeOf w = 0x03) :
    control (decodeRecord w) = ⟨true, true, false, false, some .add⟩ := by
  simp [decodeRecord_of_ne_zero (ne_zero_of_opcode h (by decide)), payloadOf, control, h]

theorem control_store {w : Word} (h : opcodeOf w = 0x23) :
    control (decodeRecord w) = ⟨false, false, true, false, some .add⟩ := by
  simp [decodeRecord_of_ne_zero (ne_zero_of_opcode h (by decide)), payloadOf, control, h]

theorem control_branch {w : Word} (h : opcodeOf w = 0x63) :
    control (decodeRecord w) = ⟨false, false, false, true, some .sub⟩ := by
  simp [decodeRecord_of_ne_zero (ne_zero_of_opcode h (by decide)), payloadOf, control, h]

/-- An R-type pair outside the seven has aluOp NONE (R122). -/
theorem rTypeAluOp_of_not_mem {f7 : BitVec 7} {f3 : BitVec 3} (h : (f7, f3) ∉
    [(0x00#7, 0x0#3), (0x20, 0x0), (0x00, 0x1), (0x00, 0x5), (0x20, 0x5), (0x01, 0x0), (0x01, 0x4)]) :
    rTypeAluOp f7 f3 = none := by
  unfold rTypeAluOp
  split_ifs <;> simp_all

/-- Settles O7: the signal table over instructions, and the ControlUnit's rows for the words that stand for none. -/
theorem controlSignalTable : Obligations.ControlSignalTable := by
  unfold Obligations.ControlSignalTable
  refine ⟨fun w i h => control_of_instr h, fun w hop h => ?_, fun w => ⟨control_load, control_store, control_branch⟩,
    rfl, rfl⟩
  rw [control_r hop, rTypeAluOp_of_not_mem h]

end Machine

end Sys2Proof
end

section
/-! O11 and O17: DIV, in the ALU and as an instruction (40_alu.md R164, 41_register_arith.md R186). -/

namespace Sys2Proof.Machine

/-! ## The quotient truncated toward zero -/

/-- The quotient of magnitudes with the sign of the operands is the truncating quotient. -/
theorem quotient_eq_tdiv (a b : Int) : quotient a b = Int.tdiv a b := by
  unfold quotient
  cases a with
  | ofNat m =>
    cases b with
    | ofNat n => simp [Int.not_lt.2 (Int.natCast_nonneg m), Int.not_lt.2 (Int.natCast_nonneg n)]
    | negSucc n => simp [Int.tdiv]
  | negSucc m =>
    cases b with
    | ofNat n => simp [Int.tdiv]
    | negSucc n => simp [Int.tdiv]

theorem divOverflows_iff (a b : Word) : divOverflows a b = true ↔ a = 0x80000000 ∧ b = 0xFFFFFFFF := by
  simp [divOverflows]

theorem divide_zero (p : DivOverflow) (a : Word) : divide p a 0 = some 0 := if_pos rfl

/-- Every pair but the open one has the truncated quotient, which fits the word exactly (R164). -/
theorem divide_exact (p : DivOverflow) {a b : Word} (hb : b ≠ 0) (hopen : ¬(a = 0x80000000 ∧ b = 0xFFFFFFFF)) :
    ∃ q : Word, divide p a b = some q ∧ q.toInt = Int.tdiv a.toInt b.toInt := by
  refine ⟨BitVec.ofInt 32 (quotient a.toInt b.toInt), ?_, ?_⟩
  · rw [← divOverflows_iff] at hopen
    simp only [divide, if_neg hb, if_neg hopen]
  · have hpair : a ≠ BitVec.intMin 32 ∨ b ≠ -1#32 := not_and_or.1 hopen
    rw [quotient_eq_tdiv, BitVec.toInt_ofInt, ← BitVec.toInt_sdiv, BitVec.toInt_sdiv_of_ne_or_ne a b hpair]

theorem divide_open_pair_value (v : Word) : divide (.value v) 0x80000000 0xFFFFFFFF = some v := rfl

/-! ## DIV as an instruction -/

/-- In EX the open pair raises fault(div_overflow), where DIV_OVERFLOW is a fault (R306). -/
theorem exec_ex_div_open_pair {s : State} {rs1 rs2 : Reg} (rd : Reg) (hex : s.activity = .ex)
    (hp : s.input.divOverflow = .fault) (ha : s.operandInEx (some rs1) s.cur.idex.a = 0x80000000)
    (hb : s.operandInEx (some rs2) s.cur.idex.b = 0xFFFFFFFF) :
    exec (.div rd rs1 rs2) s = .fault (.divOverflow ⟨s.cycle, s.cur.idex.pc, some s.cur.idex.ins.raw⟩) := by
  have hnone : resultInEx (Work.registers .div rd rs1 rs2) s = none := by
    have hdivide : resultInEx (Work.registers .div rd rs1 rs2) s = divide s.input.divOverflow
      (s.operandInEx (some rs1) s.cur.idex.a) (s.operandInEx (some rs2) s.cur.idex.b) := rfl
    rw [hdivide, hp, ha, hb, divide_open_pair]
  have hperform : exec (.div rd rs1 rs2) s = perform (Work.registers .div rd rs1 rs2) s := rfl
  rw [hperform, perform, hex]
  simp only [execute, hnone]

/-- As a whole instruction it raises it too. -/
theorem exec_whole_div_open_pair {s : State} {rs1 rs2 : Reg} (rd : Reg) (hwhole : s.activity = .whole)
    (hp : s.input.divOverflow = .fault) (ha : s.readReg rs1 = 0x80000000) (hb : s.readReg rs2 = 0xFFFFFFFF) :
    exec (.div rd rs1 rs2) s = .fault (.divOverflow ⟨s.cycle, s.pc, s.wordAt s.pc⟩) := by
  have hnone : resultWhole (Work.registers .div rd rs1 rs2) s = none := by
    have hdivide : resultWhole (Work.registers .div rd rs1 rs2) s =
      divide s.input.divOverflow (s.readReg rs1) (s.readReg rs2) := rfl
    rw [hdivide, hp, ha, hb, divide_open_pair]
  have hperform : exec (.div rd rs1 rs2) s = perform (Work.registers .div rd rs1 rs2) s := rfl
  rw [hperform, perform, hwhole]
  simp only [performWhole, hnone]

/-- Settles O11, by the cases of the divisor and of the open pair. -/
theorem aluDivTruncates : Obligations.AluDivTruncates := by
  unfold Obligations.AluDivTruncates
  refine ⟨fun p a b => ⟨?_, fun hb hopen => divide_exact p hb hopen⟩, divide_open_pair, divide_open_pair_value,
    fun rd rs1 rs2 s => exec_ex_div_open_pair rd⟩
  rintro rfl
  exact divide_zero p a

/-- Settles O17: the decoder's row, and the ALU's cases on the registers read. -/
theorem divResults : Obligations.DivResults := by
  unfold Obligations.DivResults
  refine ⟨fun w hop h7 h3 => decode_r_of_functs hop h7 h3, ?_, fun rd rs1 rs2 s hex hp ha hb =>
    ⟨_, exec_ex_div_open_pair rd hex hp ha hb⟩⟩
  rintro rd rs1 rs2 s a b hwhole rfl rfl
  refine ⟨fun hb => ?_, fun hb hopen => ?_, fun ha hb v hp => ?_, fun ha hb hp =>
    ⟨_, exec_whole_div_open_pair rd hwhole hp ha hb⟩⟩
  · refine exec_whole_registers (op := .div) rfl hwhole ?_
    rw [hb]
    exact divide_zero _ _
  · obtain ⟨q, hdivide, hq⟩ := divide_exact s.input.divOverflow hb hopen
    exact ⟨q, hq, exec_whole_registers (op := .div) rfl hwhole hdivide⟩
  · refine exec_whole_registers (op := .div) rfl hwhole ?_
    rw [ha, hb, hp]
    exact divide_open_pair_value v

end Sys2Proof.Machine
end

section
/-! O12, O14, O23 and O33: data memory as bytes (20_memory.md R71 to R78). What a load reads and a store leaves, byte by
byte; memories in canonical form are told apart by their bytes. -/

namespace Sys2Proof.Machine

/-! ## The bytes of a loaded value and of a store -/

/-- The low bytes of an in-range load are the bytes in memory, for every width and either extension (R71, R230). -/
theorem byteOf_loadValue (m : Memory) (k : LoadKind) (x : Nat) {j : Nat} (hj : j < k.size) :
    byteOf (m.loadValue k x) j = m.read (x + j) := by
  apply BitVec.eq_of_getLsbD_eq
  intro n hn
  cases k <;> simp only [LoadKind.size] at hj <;> interval_cases j <;>
    simp only [byteOf, Memory.loadValue, Memory.read16, Memory.read32, BitVec.getLsbD_extractLsb',
      BitVec.getLsbD_signExtend, BitVec.getLsbD_setWidth, BitVec.getLsbD_append] <;>
    grind

/-- Bytes 4 and on of a store are those of the value drawn (R244). -/
theorem storeBytes_getElem_of_four_le (k : StoreKind) (d high : Word) {j : Nat} (hj : j < k.size) (h4 : 4 ≤ j) :
    (storeBytes k d high)[j]'(by simpa using hj) = byteOf high (j - 4) := by
  cases k with
  | double =>
    simp only [StoreKind.size] at hj
    interval_cases j <;> rfl
  | byte | half | word =>
    simp only [StoreKind.size] at hj
    omega

/-- Settles O12: a load and a store that complete, with their bytes in range, and out of range 0 and the old memory. -/
theorem wideAccessesAreLittleEndian : Obligations.WideAccessesAreLittleEndian := by
  unfold Obligations.WideAccessesAreLittleEndian
  intro s ea d hw hoob
  refine ⟨fun k => ⟨_, State.load_of_ignore hoob k ea, fun hin j hj => ?_, fun hout => if_neg (Nat.not_le.2 hout)⟩,
    fun k => ?_⟩
  · rw [if_pos hin, byteOf_loadValue s.mem k ea.toNat hj]
  · obtain ⟨t, hstore⟩ := State.store_isSome hoob k ea d
    refine ⟨t, hstore, State.store_wf hstore hw, fun hin => ?_, fun hout => State.store_out_of_range_mem hout hstore⟩
    obtain ⟨hbytes, hframe⟩ := State.read_store_in_range hw hin hstore
    exact ⟨fun j hj h4 => (hbytes j hj).trans (storeBytes_getElem_of_lt_four k d _ hj h4),
      fun j h4 hj => (hbytes j hj).trans (storeBytes_getElem_of_four_le k d _ hj h4), hframe⟩

/-! ## The canonical form (log 2) -/

theorem Memory.wfFrom_cons {low a : Nat} {v : Byte} {m : Memory} (h : Memory.wfFrom low ((a, v) :: m) = true) :
    v ≠ Config.memFill ∧ Memory.wfFrom (a + 1) m = true := by
  simp only [Memory.wfFrom, Bool.and_eq_true, bne_iff_ne] at h
  exact ⟨h.1.2, h.2⟩

/-- The first listed byte is no fill byte, so no memory that lists only later ones reads the same. -/
theorem Memory.read_ne_of_lt {low a : Nat} {v : Byte} {m m' : Memory} (h : Memory.wfFrom low ((a, v) :: m) = true)
    (h' : Memory.wfFrom (a + 1) m' = true) : Memory.read ((a, v) :: m) a ≠ m'.read a := by
  rw [Memory.read_below h' (Nat.lt_succ_self a), Memory.read, if_pos rfl]
  exact (Memory.wfFrom_cons h).1

theorem Memory.wfFrom_of_lt {low a b : Nat} {v : Byte} {m : Memory} (h : Memory.wfFrom low ((b, v) :: m) = true)
    (hab : a < b) : Memory.wfFrom (a + 1) ((b, v) :: m) = true := by
  simp only [Memory.wfFrom, Bool.and_eq_true, decide_eq_true_eq] at h ⊢
  exact ⟨⟨by omega, h.1.2⟩, h.2⟩

/-- The first listed addresses agree, by what is read there; then the rests read alike too. -/
theorem Memory.eq_of_read_eq {low : Nat} {m m' : Memory} (h : Memory.wfFrom low m = true)
    (h' : Memory.wfFrom low m' = true) (hread : ∀ x, m.read x = m'.read x) : m = m' := by
  induction m generalizing low m' with
  | nil =>
    cases m' with
    | nil => rfl
    | cons c' rest' => exact absurd (hread c'.1).symm (Memory.read_ne_of_lt h' rfl)
  | cons c rest ih =>
    obtain ⟨a, v⟩ := c
    cases m' with
    | nil => exact absurd (hread a) (Memory.read_ne_of_lt h rfl)
    | cons c' rest' =>
      obtain ⟨b, w⟩ := c'
      rcases lt_trichotomy a b with hab | rfl | hab
      · exact absurd (hread a) (Memory.read_ne_of_lt h (Memory.wfFrom_of_lt h' hab))
      · have hv : v = w := by simpa [Memory.read] using hread a
        obtain ⟨_, hrest⟩ := Memory.wfFrom_cons h
        obtain ⟨_, hrest'⟩ := Memory.wfFrom_cons h'
        rw [hv, ih hrest hrest' fun x => ?_]
        by_cases hx : a = x
        · rw [Memory.read_below hrest (by omega), Memory.read_below hrest' (by omega)]
        · simpa [Memory.read, hx] using hread x
      · exact absurd (hread b).symm (Memory.read_ne_of_lt h' (Memory.wfFrom_of_lt h hab))

/-- Settles O14. -/
theorem canonicalMemoriesAreEqual : Obligations.CanonicalMemoriesAreEqual := by
  unfold Obligations.CanonicalMemoriesAreEqual
  exact fun m m' h h' hread => Memory.eq_of_read_eq h h' hread

/-! ## SD (43_loads_stores.md R244) -/

/-- An SD changes memory, and draws in range and out of range alike (log 7). -/
theorem State.store_double_frame {s t : State} {ea d : Word} (h : s.store .double ea d = some t) :
    t = { s with mem := t.mem, draws := s.draws + 1 } := by
  rcases State.store_cases h with ⟨_, rfl⟩ | ⟨_, _, rfl⟩ <;> rfl

/-- Settles O23: the decoder's row, and a whole store of kind double with its bytes in range. -/
theorem storeDoublewordResults : Obligations.StoreDoublewordResults := by
  unfold Obligations.StoreDoublewordResults
  constructor
  · intro w hop h3
    rw [decode_store hop, h3, immS]
    rfl
  · rintro rs1 rs2 imm s x hwhole hw hoob rfl
    obtain ⟨t, hstore⟩ := State.store_isSome hoob .double (s.readReg rs1 + imm) (s.readReg rs2)
    refine ⟨t.mem, State.store_wf hstore hw, ?_, fun hin => ?_, fun hout => State.store_out_of_range_mem hout hstore⟩
    · rw [exec_whole_storing rfl hwhole hstore, State.store_double_frame hstore]
      rfl
    · obtain ⟨hbytes, hframe⟩ := State.read_store_in_range hw hin hstore
      refine ⟨fun j hj => ?_, fun j hj => ?_, hframe⟩
      · have hsize : j < StoreKind.double.size := hj.trans (by decide)
        exact (hbytes j hsize).trans (storeBytes_getElem_of_lt_four .double _ _ hsize hj)
      · have hsize : 4 + j < StoreKind.double.size := Nat.add_lt_add_left hj 4
        rw [Nat.add_assoc, hbytes _ hsize]
        exact (storeBytes_getElem_of_four_le .double _ _ hsize (by omega)).trans (by rw [Nat.add_sub_cancel_left]; rfl)

/-! ## A word stored and loaded back -/

/-- Settles O33: the store leaves its word in memory and every register as it was, and the load reads it. -/
theorem storeThenLoadRoundTrip : Obligations.StoreThenLoadRoundTrip := by
  unfold Obligations.StoreThenLoadRoundTrip
  intro rs1 rs2 rd rs1' imm imm' s t hwhole hw hoob hrd haddr hin h
  obtain ⟨t', hstore⟩ := State.store_isSome hoob .word (s.readReg rs1 + imm) (s.readReg rs2)
  obtain rfl := Host.Outcome.next.inj (h.symm.trans (exec_whole_storing rfl hwhole hstore))
  have hframe := State.store_eq_setMem (by decide) hstore
  have hwhole' : (t'.setPc (s.pc + 4)).activity = .whole := by rw [hframe]; exact hwhole
  have hoob' : (t'.setPc (s.pc + 4)).input.oobPolicy = .ignore := by rw [hframe]; exact hoob
  have hread : (t'.setPc (s.pc + 4)).readReg rs1' = s.readReg rs1' := by rw [hframe]; rfl
  have hword : t'.mem.loadValue .word (s.readReg rs1 + imm).toNat = s.readReg rs2 :=
    (State.store_word_holdsWord hw hin hstore).read32
  refine ⟨_, exec_whole_loading (k := .word) rfl hwhole' hoob' rfl, ?_⟩
  have hin' : (s.readReg rs1 + imm).toNat + LoadKind.word.size ≤ Config.memSize := hin
  rw [State.setPc_readReg, State.readReg_writeReg_eq _ hrd, hread, ← haddr, if_pos hin', State.setPc_mem, hword]

end Sys2Proof.Machine
end

section
/-! O25, O26, O27, O29, O30 and O31: jumps and inert words, that whole instructions complete, and what an instruction
leaves unchanged, as a whole and in each stage (41 to 45, 50_pipeline.md R301 to R316). -/

namespace Sys2Proof.Machine

/-! ## The parts of an instruction, by activity -/

section
variable {i : Instr} {w : Work} {s t : State} (hexec : ∀ s, exec i s = perform w s)
include hexec

theorem exec_whole_eq (h : s.activity = .whole) : exec i s = performWhole w s := by
  rw [hexec, perform, h]

theorem exec_wb_eq (h : s.activity = .wb) : exec i s = writeBack w s := by
  rw [hexec, perform, h]

theorem exec_mem_eq (h : s.activity = .mem) : exec i s = memoryAccess w s := by
  rw [hexec, perform, h]

theorem exec_ex_eq (h : s.activity = .ex) : exec i s = execute w s := by
  rw [hexec, perform, h]

theorem exec_id_eq (h : s.activity = .id) : exec i s = accept w s := by
  rw [hexec, perform, h]

/-- In EX an instruction with a result hands it on, and changes next EX/MEM alone (R304, R305). -/
theorem exec_ex_of_result {r : Word} (h : s.activity = .ex) (hr : resultInEx w s = some r) :
    ∃ l, exec i s = .next (s.setExmem l) ∧ l.aluResult = r := by
  rw [exec_ex_eq hexec h]
  simp only [execute, hr]
  exact ⟨_, rfl, rfl⟩

end

/-! ## Jumps (R267, R268) -/

/-- Settles O25: the decoder's rows, and the parts of the two jumps. -/
theorem jumpResults : Obligations.JumpResults := by
  unfold Obligations.JumpResults
  refine ⟨fun w => ⟨fun hop => decode_jal hop, fun hop => decode_jalr hop⟩, fun rd rs1 imm s =>
    ⟨fun hid => ?_, fun hex => ?_, fun hwhole => ⟨?_, ?_⟩⟩⟩
  · obtain ⟨t, ht, _, _, htarget⟩ := exec_id (i := .jal rd imm) (w := Work.jumping rd none fun ipc _ => ipc + imm) rfl hid
    obtain ⟨u, hu, _, _, hutarget⟩ := exec_id (i := .jalr rd rs1 imm)
      (w := Work.jumping rd (some rs1) fun _ a => (a + imm) &&& 0xFFFFFFFE) rfl hid
    exact ⟨t, u, ht, htarget, hu, hutarget⟩
  · obtain ⟨l, hl, hlink⟩ := exec_ex_of_result (i := .jal rd imm) (fun _ => rfl) hex rfl
    obtain ⟨l', hl', hlink'⟩ := exec_ex_of_result (i := .jalr rd rs1 imm) (fun _ => rfl) hex rfl
    exact ⟨_, _, hl, hlink, hl', hlink'⟩
  · exact perform_whole_of_no_access (w := Work.jumping rd none fun ipc _ => ipc + imm) hwhole rfl rfl rfl
  · exact perform_whole_of_no_access (w := Work.jumping rd (some rs1) fun _ a => (a + imm) &&& 0xFFFFFFFE) hwhole
      rfl rfl rfl

/-! ## Inert words (R290, R291) -/

theorem exec_inert {i : Instr} (h : i = .nop ∨ i = .unknown) (s : State) : exec i s = perform Work.inert s := by
  obtain rfl | rfl := h <;> rfl

/-- In MEM an inert instruction accesses nothing, whatever signals it comes with. -/
theorem accessInMem_inert (s : State) : accessInMem Work.inert s = some (0, s) := by
  simp [accessInMem, Work.inert, State.access]

/-- Settles O26, by the part of the instruction that is performed. -/
theorem inertResults : Obligations.InertResults := by
  unfold Obligations.InertResults
  intro i s hi
  have hexec := exec_inert hi
  refine ⟨fun hwhole => (hexec s).trans (perform_whole_of_no_access hwhole rfl rfl rfl), fun hpart => ?_⟩
  cases hact : s.activity with
  | whole => exact absurd hact hpart
  | wb =>
    refine ⟨s, ?_, rfl, rfl, rfl, rfl, nofun⟩
    rw [exec_wb_eq hexec hact, writeBack_next]
    exact congrArg Host.Outcome.next (ite_self s)
  | mem =>
    simp only [exec_mem_eq hexec hact, memoryAccess, accessInMem_inert]
    exact ⟨_, rfl, rfl, rfl, rfl, rfl, nofun⟩
  | ex =>
    obtain ⟨l, hl, _⟩ := exec_ex_of_result hexec hact rfl
    exact ⟨_, hl, rfl, rfl, rfl, rfl, nofun⟩
  | id => exact ⟨_, (exec_id_eq hexec hact).trans (accept_next _ s), rfl, rfl, rfl, rfl, fun _ => rfl⟩

/-! ## Whole instructions complete -/

/-- Settles O27: only DIV can have no result, on the open pair, and under OOB_POLICY = ignore every access
completes. -/
theorem everyInstructionCompletes : Obligations.EveryInstructionCompletes := by
  unfold Obligations.EveryInstructionCompletes
  intro i s hwhole hoob hdiv
  obtain ⟨w, hexec, hnone⟩ := work_result_none i
  cases hr : resultWhole w s with
  | none =>
    obtain ⟨rd, rs1, rs2, rfl, hrs1, hrs2, hdivide⟩ := hnone _ _ _ _ hr
    rw [hrs1, hrs2] at hdivide
    obtain ⟨hp, ha, hb⟩ := divide_eq_none hdivide
    exact absurd ⟨ha, hb⟩ (hdiv rd rs1 rs2 rfl hp)
  | some r =>
    obtain ⟨v, t, haccess⟩ := State.access_isSome hoob w.load w.store r (s.operand w.rs2)
    exact ⟨_, (hexec s).trans (perform_whole_of_access hwhole hr haccess)⟩

/-! ## The frames of whole instructions -/

/-- A data access that stores nothing leaves the state as it is. -/
theorem State.access_of_no_store {s t : State} {load : Option LoadKind} {ea d v : Word}
    (h : s.access load none ea d = some (v, t)) : t = s := by
  rcases State.access_cases h with ⟨_, _, _, rfl⟩ | ⟨_, _, hstore, _⟩ | ⟨_, _, _, rfl⟩
  · rfl
  · cases hstore
  · rfl

/-- Settles O29: a whole instruction that stores nothing writes its destination and pc. -/
theorem nonStoringFrame : Obligations.NonStoringFrame := by
  unfold Obligations.NonStoringFrame
  intro i s t hwhole hnone h
  obtain ⟨w, hexec, hrd, _, hstore⟩ := exec_eq_perform i
  rw [exec_whole_eq hexec hwhole] at h
  obtain ⟨r, v, u, _, haccess, rfl⟩ := performWhole_cases h
  rw [hstore, hnone] at haccess
  obtain rfl := State.access_of_no_store haccess
  refine ⟨fun r hr => State.readReg_writeDest_ne _ (hrd ▸ hr) _, fun a => ?_, ?_⟩
  · rw [State.setPc_mem, State.writeDest_mem]
  · simp

/-- All a store changes: bytes from its address on, in range, and for an SD the draw counter (R72, R73, log 7). -/
theorem State.store_frame {s t : State} {k : StoreKind} {ea d : Word} (h : s.store k ea d = some t) :
    t = { s with mem := t.mem, draws := if k = .double then s.draws + 1 else s.draws } ∧
    ∀ a, a < ea.toNat ∨ ea.toNat + k.size ≤ a → t.mem.read a = s.mem.read a := by
  rcases State.store_cases h with ⟨_, rfl⟩ | ⟨_, _, rfl⟩
  · refine ⟨by cases k <;> rfl, fun a ha => ?_⟩
    rw [State.afterDraw_mem, State.setMem_mem]
    exact Memory.read_writeBytes_outside _ (by simpa [State.bytesToStore] using ha)
  · exact ⟨by cases k <;> rfl, fun a _ => by rw [State.afterDraw_mem]⟩

theorem exec_storing_kind {i : Instr} {k : StoreKind} {rs1 rs2 : Reg} {imm : Word}
    (h : (i, k) ∈ [(Instr.sb rs1 rs2 imm, StoreKind.byte), (Instr.sh rs1 rs2 imm, .half),
      (Instr.sw rs1 rs2 imm, .word), (Instr.sd rs1 rs2 imm, .double)]) (s : State) :
    exec i s = perform (Work.storing k rs1 rs2 imm) s := by
  simp only [List.mem_cons, List.not_mem_nil, or_false, Prod.mk.injEq] at h
  obtain ⟨rfl, rfl⟩ | ⟨rfl, rfl⟩ | ⟨rfl, rfl⟩ | ⟨rfl, rfl⟩ := h <;> rfl

/-- Settles O30: a whole store makes its store at rs1 plus the immediate and moves pc. -/
theorem storingFrame : Obligations.StoringFrame := by
  unfold Obligations.StoringFrame
  intro rs1 rs2 imm i k s t hwhole hi h
  rw [exec_whole_eq (exec_storing_kind hi) hwhole] at h
  obtain ⟨r, v, u, hr, haccess, rfl⟩ := performWhole_cases h
  obtain rfl : s.readReg rs1 + imm = r := Option.some.inj hr
  rcases State.access_cases haccess with ⟨_, hload, _⟩ | ⟨_, k', hk, hstore, _⟩ | ⟨_, hno, _⟩
  · cases hload
  · obtain rfl : k = k' := Option.some.inj hk
    obtain ⟨hframe, hbytes⟩ := State.store_frame hstore
    refine ⟨fun q => ?_, ?_, ?_⟩
    · rw [hframe]; rfl
    · rintro a _ rfl ha
      exact hbytes a ha
    · rw [hframe]
      exact ⟨rfl, rfl, rfl, rfl, rfl, rfl, rfl, rfl, rfl, rfl, rfl, rfl⟩
  · cases hno

/-! ## The frames of the stages -/

/-- What MEM's data access changes: no byte outside the instruction's own store, and none without memWrite. -/
theorem accessInMem_frame {i : Instr} {w : Work} {s u : State} {v : Word} (hload : w.load = i.loadKind)
    (hstore : w.store = i.storeKind) (h : accessInMem w s = some (v, u)) :
    (∀ a : Nat, (a < s.cur.exmem.aluResult.toNat ∨
        ∀ k, i.storeKind = some k → s.cur.exmem.aluResult.toNat + k.size ≤ a) → u.mem.read a = s.mem.read a) ∧
    (s.cur.exmem.ctl.memWrite = false → u.mem = s.mem) ∧
    u.draws = (if i.storeKind = some .double ∧ s.cur.exmem.ctl.memWrite = true then s.draws + 1 else s.draws) := by
  rcases State.access_cases h with ⟨k, hk, _, rfl⟩ | ⟨_, k, hk, hs, _⟩ | ⟨_, hk, _, rfl⟩
  · have hnone : i.storeKind = none := by
      refine (loadKind_or_storeKind_none i).resolve_left fun hno => ?_
      rw [hload, hno, ite_self] at hk
      cases hk
    simp [hnone]
  · obtain ⟨hwrite, hk⟩ : s.cur.exmem.ctl.memWrite = true ∧ i.storeKind = some k := by
      rw [hstore] at hk
      simpa using hk
    obtain ⟨hframe, hbytes⟩ := State.store_frame hs
    refine ⟨fun a ha => hbytes a (ha.imp_right fun ha => ha k hk), fun hno => ?_, ?_⟩
    · cases hwrite.symm.trans hno
    · rw [hframe]
      simp [hk, hwrite]
  · refine ⟨fun _ _ => rfl, fun _ => rfl, (if_neg ?_).symm⟩
    rintro ⟨hdouble, hwrite⟩
    rw [hwrite, hstore, hdouble] at hk
    cases hk

/-- Settles O31, by the stage: WB writes a destination, MEM makes its access and fills MEM/WB, EX fills EX/MEM, and ID
fills ID/EX and decides. -/
theorem stageFrames : Obligations.StageFrames := by
  unfold Obligations.StageFrames
  intro i s t h
  obtain ⟨w, hexec, hrd, hload, hstore⟩ := exec_eq_perform i
  refine ⟨fun hact => ?wb, fun hact => ?mem, fun hact => ?ex, fun hact => ?id⟩
  case wb =>
    rw [exec_wb_eq hexec hact, writeBack_next, hrd] at h
    obtain rfl := Host.Outcome.next.inj h
    split
    · exact ⟨State.writeDest_frame s _ _, fun r hr => State.readReg_writeDest_ne s hr _⟩
    · exact ⟨rfl, fun _ _ => rfl⟩
  case mem =>
    rw [exec_mem_eq hexec hact] at h
    obtain ⟨v, u, haccess, rfl⟩ := memoryAccess_cases h
    have hmem := accessInMem_frame hload hstore haccess
    refine ⟨?_, hmem⟩
    rw [State.access_frame haccess]
    rfl
  case ex =>
    rw [exec_ex_eq hexec hact] at h
    obtain ⟨r, _, rfl⟩ := execute_cases h
    rfl
  case id =>
    rw [exec_id_eq hexec hact, accept_next] at h
    obtain rfl := Host.Outcome.next.inj h
    rfl

end Sys2Proof.Machine
end

section
/-! O34, O36, O51 and O52: a cycle's stages as `exec`, MEM in a cycle, the MEM/WB arm of the mux, and how long a stall
lasts (50_pipeline.md R300 to R335, 70_reset_and_hazards.md). -/

namespace Sys2Proof.Machine

/-! ## A step as `exec` of the decoded records -/

/-- The rest of a cycle matters only on the state that its first part answers. -/
theorem andThen_congr {o : Host.Outcome State Fault Refusal} {f g : State → Host.Outcome State Fault Refusal}
    (h : ∀ s, o = .next s → f s = g s) : andThen o f = andThen o g := by
  cases o with
  | next s => exact h s rfl
  | fault r => rfl
  | refused r => rfl

theorem wbStage_of_instr {s : State} {i : Instr} (h : s.cur.memwb.ins.instr = .ok i) :
    wbStage s = exec i ((s.record s.cur.memwb.id .WB).setActivity .wb) := runIn_of_ok h _ _

theorem memStage_of_instr {s : State} {i : Instr} (h : s.cur.exmem.ins.instr = .ok i) :
    memStage s = exec i ((s.record s.cur.exmem.id .MEM).setActivity .mem) := runIn_of_ok h _ _

theorem exStage_of_instr {s : State} {i : Instr} (h : s.cur.idex.ins.instr = .ok i) :
    exStage s = exec i ((s.record s.cur.idex.id .EX).setActivity .ex) := runIn_of_ok h _ _

theorem idStage_of_instr {s : State} {i : Instr} (h : s.cur.ifid.ins.instr = .ok i) :
    idStage s = if hazard s.input.fwd s.cur s.cur.ifid.ins then .next (stallInId s)
      else exec i (((s.setStalled false).record s.cur.ifid.id .ID).setActivity .id) := by
  rw [idStage, runIn_of_ok h]

/-- The stages run in order, each on the latches that the cycle found: no stage changes a current latch. -/
theorem step_eq_exec_stages {s : State} {iw im ix id : Instr} (hmark : s.mark = none)
    (hw : s.cur.memwb.ins.instr = .ok iw) (hm : s.cur.exmem.ins.instr = .ok im)
    (hx : s.cur.idex.ins.instr = .ok ix) (hd : s.cur.ifid.ins.instr = .ok id) :
    step s =
      andThen (exec iw ((s.record s.cur.memwb.id .WB).setActivity .wb)) fun s1 =>
      andThen (exec im ((s1.record s1.cur.exmem.id .MEM).setActivity .mem)) fun s2 =>
      andThen (exec ix ((s2.record s2.cur.idex.id .EX).setActivity .ex)) fun s3 =>
      andThen (if hazard s3.input.fwd s3.cur s3.cur.ifid.ins then .next (stallInId s3)
        else exec id (((s3.setStalled false).record s3.cur.ifid.id .ID).setActivity .id)) fun s4 =>
      andThen (ifStage s4) fun s5 => .next (commit s5) := by
  rw [step_of_unmarked hmark, oneCycle, ← wbStage_of_instr hw]
  refine andThen_congr fun s1 h1 => ?_
  have hcur1 : s1.cur = s.cur := by rw [wbStage_frame h1]
  rw [← memStage_of_instr (by rw [hcur1]; exact hm)]
  refine andThen_congr fun s2 h2 => ?_
  have hcur2 : s2.cur = s.cur := by rw [memStage_frame h2, hcur1]
  rw [← exStage_of_instr (by rw [hcur2]; exact hx)]
  refine andThen_congr fun s3 h3 => ?_
  have hcur3 : s3.cur = s.cur := by rw [exStage_frame h3, hcur2]
  rw [← idStage_of_instr (by rw [hcur3]; exact hd)]

/-- Settles O34: the stages as `exec`, and the fetch of a cycle that fetches as the decoding of what stands at pc. -/
theorem stepRunsDecodedInstructions : Obligations.StepRunsDecodedInstructions := by
  unfold Obligations.StepRunsDecodedInstructions
  refine ⟨fun s iw im ix id hmark hw hm hx hd => step_eq_exec_stages hmark hw hm hx hd,
    fun s t w i h hf haligned hw hi => ?_, fun s t w h hf hmis hw => ?_⟩
  · obtain ⟨hifid, _⟩ := drainCycle_of_fetching_step h hf
    rw [hifid, fetched, wordAt_aligned s haligned, hw]
    exact ⟨rfl, hi, rfl⟩
  · obtain ⟨hifid, _⟩ := drainCycle_of_fetching_step h hf
    rw [hifid, fetched, fetchId_misaligned _ hmis, wordAt_misaligned s hmis, hw]
    rfl

/-! ## MEM in a cycle (R302, R303) -/

/-- The store data is MEM/WB's value exactly where FWD = true and MEM/WB writes the store's rs2, not x0 (R303). -/
theorem State.storeValue_eq (s : State) : s.storeValue =
    if s.input.fwd = true ∧ s.cur.memwb.ctl.regWrite = true ∧ s.cur.memwb.ins.rd ≠ some 0 ∧
      s.cur.memwb.ins.rd.isSome = true ∧ s.cur.memwb.ins.rd = s.cur.exmem.ins.rs2
    then s.cur.memwb.value else s.cur.exmem.storeData := by
  unfold State.storeValue
  cases hrs2 : s.cur.exmem.ins.rs2 with
  | none =>
    refine (if_neg ?_).symm
    rintro ⟨_, _, _, hsome, hnone⟩
    simp [hnone] at hsome
  | some r =>
    refine if_congr ?_ rfl rfl
    rw [Bool.and_eq_true, produces_iff]
    refine and_congr_right fun _ => and_congr_right fun _ => ⟨?_, ?_⟩
    · rintro ⟨hrd, hr⟩
      have hr0 : ¬r = 0#5 := hr
      simp [hrd, hr0]
    · rintro ⟨hne, _, hrd⟩
      exact ⟨hrd, fun h0 => hne (by rw [hrd, h0])⟩

theorem State.access_load {s t : State} {k : LoadKind} {store : Option StoreKind} {ea d v : Word}
    (h : s.access (some k) store ea d = some (v, t)) : s.load k ea = some v := by
  rcases State.access_cases h with ⟨k', hk, hload, _⟩ | ⟨hno, _⟩ | ⟨hno, _⟩
  · rwa [Option.some.inj hk]
  · cases hno
  · cases hno

theorem State.access_store {s t : State} {k : StoreKind} {ea d v : Word}
    (h : s.access none (some k) ea d = some (v, t)) : s.store k ea d = some t := by
  rcases State.access_cases h with ⟨_, hno, _⟩ | ⟨_, k', hk, hstore, _⟩ | ⟨_, hno, _⟩
  · cases hno
  · rwa [Option.some.inj hk]
  · cases hno

/-- Byte `j` of a store in range: of the data below 4, and of the value drawn from there on. -/
theorem State.read_store_byte {s t : State} {k : StoreKind} {ea d : Word} (hw : s.mem.wf = true)
    (hin : ea.toNat + k.size ≤ Config.memSize) (h : s.store k ea d = some t) {j : Nat} (hj : j < k.size) :
    t.mem.read (ea.toNat + j) =
      if j < 4 then d.extractLsb' (8 * j) 8 else (Config.sdHigh s.draws).extractLsb' (8 * (j - 4)) 8 := by
  obtain ⟨hbytes, _⟩ := State.read_store_in_range hw hin h
  rw [hbytes j hj]
  split
  · next h4 => exact storeBytes_getElem_of_lt_four k d _ hj h4
  · next h4 => exact storeBytes_getElem_of_four_le k d _ hj (Nat.not_lt.1 h4)

/-- Settles O36: MEM/WB and memory after a step are those of the access of the instruction in EX/MEM. -/
theorem cycleMemoryAccess : Obligations.CycleMemoryAccess := by
  unfold Obligations.CycleMemoryAccess
  rintro s t i _ d hinv hoob h hi rfl hd
  rw [← State.storeValue_eq] at hd
  obtain ⟨hmemwb, u, haccess, hmem, _⟩ := State.memOut_eq_some hi hinv.control_exmem (step_backEnd h).mem
  rw [← hd] at haccess
  have hw : s.mem.wf = true := by
    have hm := hinv.memory
    rw [Bool.and_eq_true] at hm
    exact hm.1
  have hstoring {k : StoreKind} (hk : i.storeKind = some k) : s.store k s.cur.exmem.aluResult d = some u := by
    have hload : i.loadKind = none := (loadKind_or_storeKind_none i).resolve_right (by rw [hk]; exact nofun)
    rw [hload, hk] at haccess
    exact State.access_store haccess
  rw [← hmem]
  refine ⟨by rw [hmemwb], by rw [hmemwb], by rw [hmemwb], by rw [hmemwb], by rw [hmemwb], fun hload => ?_,
    fun k hload => ?_, fun hstore => ?_, fun k hstore hout => ?_, fun k hstore hin => ⟨fun j hj => ?_, ?_⟩⟩
  · rw [hload] at haccess
    exact State.access_value_of_no_load haccess
  · rw [hload] at haccess
    exact Option.some.inj ((State.access_load haccess).symm.trans (State.load_of_ignore hoob k _))
  · rw [hstore] at haccess
    rw [State.access_of_no_store haccess]
  · exact State.store_out_of_range_mem hout (hstoring hstore)
  · exact State.read_store_byte hw hin (hstoring hstore) hj
  · exact (State.read_store_in_range hw hin (hstoring hstore)).2

/-! ## The MEM/WB arm of the mux (R335) -/

/-- Settles O51: past EX/MEM the mux takes MEM/WB's value, which the step's WB writes to the file. -/
theorem memWbArmAgreesWithRegisterFile : Obligations.MemWbArmAgreesWithRegisterFile := by
  unfold Obligations.MemWbArmAgreesWithRegisterFile
  intro s t r v h hr hwrite hrd hno
  have hread : t.readReg r = s.cur.memwb.value := by rw [step_readReg h, if_pos ⟨hwrite, hrd, hr⟩]
  have hmemwb : produces s.cur.memwb.ctl s.cur.memwb.ins r = true := (produces_iff _ _ _).2 ⟨hwrite, hrd, hr⟩
  have hexmem : ¬((produces s.cur.exmem.ctl s.cur.exmem.ins r && !s.cur.exmem.ctl.memRead) = true) := by
    rw [Bool.and_eq_true, produces_iff, Bool.not_eq_true']
    rintro ⟨⟨hw, hd, _⟩, hload⟩
    exact hno ⟨hw, hd, hload⟩
  have hr0 : ¬r = 0#5 := hr
  exact ⟨by rw [forward, if_neg hr0, if_neg hexmem, if_pos hmemwb, hread], hread⟩

/-! ## How long a stall lasts -/

/-- Settles O52: two stalls put bubbles into ID/EX and EX/MEM, which produce nothing. -/
theorem noThirdStallInARow : Obligations.NoThirdStallInARow := by
  unfold Obligations.NoThirdStallInARow
  intro s t u hst htu hs ht
  obtain ⟨hidex, hifid⟩ := step_stalls hst hs
  obtain ⟨hidex', hifid'⟩ := step_stalls htu ht
  exact ⟨hifid'.trans hifid, hazard_of_bubbles hidex' ((step_backEnd htu).exmem_of_bubble hidex) _ _⟩

end Sys2Proof.Machine
end

section
/-! What O58 and O60 share: one instruction on its way through the latches, with the registers of a state as its operands
(50_pipeline.md R301 to R306, R314), and when a cycle completes. -/

namespace Sys2Proof.Machine

/-! ## The whole instruction, from `exec` -/

/-- A whole instruction that completes is the execution of its record, and moves pc as the record says (R338). -/
theorem executes_of_exec {s e : State} {ins : Record} {i : Instr} (hi : ins.instr = .ok i) (hwhole : s.activity = .whole)
    (h : exec i s = .next e) : Executes s ins s.pc e.arch ∧
      e.pc = (redirectOf ins s.pc (s.operand ins.rs1) (s.operand ins.rs2)).getD (s.pc + 4) := by
  obtain ⟨w, hexec, hrs1, hrs2, hrd, hload, hstore, htarget, hresult⟩ := work_of_record hi
  rw [exec_whole_eq hexec hwhole] at h
  obtain ⟨r, v, u, hr, haccess, rfl⟩ := performWhole_cases h
  rw [resultWhole, hresult, hrs1, hrs2] at hr
  rw [hload, hstore, hrs2] at haccess
  refine ⟨⟨r, hr, i, v, hi, ?_, ?_⟩, ?_⟩
  · rw [State.accessed, haccess]
    simp [State.arch]
  · have huregs : u.regs = s.regs := by rw [State.access_frame haccess]
    rw [hrd, hload]
    exact State.writeDest_regs_congr huregs _ _
  · rw [State.setPc_pc, pcAfter, htarget, hrs1, hrs2]

/-! ## An instruction's latches -/

/-- ID/EX with record `q` at `pc`, whose operands are the registers of `z` (R314). -/
def idexOf (q : Record) (pc : Word) (id : Option Nat) (z : State) : IdEx :=
  ⟨q, pc, id, control q, z.operand q.rs1, z.operand q.rs2⟩

/-- EX/MEM behind it, with the result `r` (R304). -/
def exmemOf (q : Record) (pc : Word) (id : Option Nat) (z : State) (r : Word) : ExMem :=
  ⟨q, pc, id, control q, r, z.operand q.rs2⟩

/-- MEM/WB behind that, with the load value `v` (R302). -/
def memwbOf (q : Record) (pc : Word) (id : Option Nat) (r v : Word) : MemWb := ⟨q, pc, id, control q, r, v⟩

section
variable {u z : State} {q : Record} {pc : Word} {id : Option Nat}

/-- Where nothing ahead produces a register, the mux leaves the file's value of it alone. -/
theorem State.bypass_readReg {r : Reg} (hexmem : produces u.cur.exmem.ctl u.cur.exmem.ins r = false)
    (hmemwb : produces u.cur.memwb.ctl u.cur.memwb.ins r = false) : u.bypass r (z.readReg r) = z.readReg r := by
  unfold State.bypass
  split
  · by_cases hr : r = 0
    · rw [hr]
      exact (forward_zero _ _).trans (State.readReg_zero z).symm
    · exact forward_of_no_producer hr hexmem hmemwb _
  · rfl

/-- No latch ahead of EX produces a source of `q`. -/
def NoProducerAhead (c : Latches) (q : Record) : Prop :=
  ∀ r ∈ q.sources, produces c.exmem.ctl c.exmem.ins r = false ∧ produces c.memwb.ctl c.memwb.ins r = false

section
variable {s : Option Reg} (hs : ∀ r, s = some r → r ∈ q.sources) (hno : NoProducerAhead u.cur q)
include hs hno

theorem State.operandInEx_operand : u.operandInEx s (z.operand s) = z.operand s := by
  cases s with
  | none => rfl
  | some r => exact State.bypass_readReg (hno r (hs r rfl)).1 (hno r (hs r rfl)).2

theorem State.operandInId_operand (hregs : u.regs = z.regs) : u.operandInId s = z.operand s := by
  cases s with
  | none => rfl
  | some r =>
    have hread : u.readReg r = z.readReg r := State.readReg_congr hregs r
    rw [State.operandInId, hread]
    exact State.bypass_readReg (hno r (hs r rfl)).1 (hno r (hs r rfl)).2

end

/-- EX of such an ID/EX, with no producer ahead, hands on the result on the registers of `z`. -/
theorem State.exOut_of_latch {r : Word} (hidex : u.cur.idex = idexOf q pc id z) (hno : NoProducerAhead u.cur q)
    (hr : exResult u.input.divOverflow q (control q) pc (z.operand q.rs1) (z.operand q.rs2) = some r) :
    u.exOut = some (exmemOf q pc id z r) := by
  have hvalue : u.exValue = some r := by
    simp only [State.exValue, hidex, idexOf]
    rwa [State.operandInEx_operand (fun r => mem_sources_of_rs1) hno,
      State.operandInEx_operand (fun r => mem_sources_of_rs2) hno]
  rw [State.exOut, hvalue, hidex]
  simp only [idexOf, State.operandInEx_operand (fun r => mem_sources_of_rs2) hno]
  rfl

/-- MEM of such an EX/MEM makes the instruction's access. -/
theorem State.memOut_of_latch {i : Instr} {r v : Word} {m : Memory} {n : Nat} (hi : q.instr = .ok i)
    (hexmem : u.cur.exmem = exmemOf q pc id z r)
    (haccess : u.accessed i.loadKind i.storeKind r u.storeValue = some (v, m, n)) :
    u.memOut = some (memwbOf q pc id r v, m, n) := by
  rw [State.memOut_of_instr (i := i) (by rw [hexmem]; exact hi) (by rw [hexmem]; rfl), hexmem, exmemOf, haccess]
  rfl

/-- WB of such a MEM/WB writes the load value or the result. -/
theorem State.writtenBack_of_latch {i : Instr} {r v : Word} (hi : q.instr = .ok i)
    (hmemwb : u.cur.memwb = memwbOf q pc id r v) (hregs : u.regs = z.regs) :
    u.writtenBack.regs = (z.writeDest q.rd (if i.loadKind.isSome then v else r)).regs := by
  have hvalue : u.cur.memwb.value = if i.loadKind.isSome then v else r := by
    rw [hmemwb, MemWb.value, memwbOf, control_of_instr hi, signalTable_memRead]
  rw [State.writtenBack, hvalue, hmemwb, memwbOf, control_regWrite]
  cases hrd : q.rd with
  | none => exact hregs
  | some d => exact (congrArg State.regs (if_pos rfl)).trans (State.writeDest_regs_congr hregs _ _)

end

/-- A store's data does not matter to an access that stores nothing. -/
theorem State.accessed_of_no_store (s : State) (load : Option LoadKind) (ea d d' : Word) :
    s.accessed load none ea d = s.accessed load none ea d' := by
  cases load <;> rfl

/-! ## When a cycle completes -/

/-- A cycle whose back end completes is completed by a stall, by a redirect, and by a fetch at a multiple of 4. -/
theorem step_isNext_of_backStages {s s3 : State} (hmark : s.mark = none) (hback : backStages s = .next s3)
    (hsup : supported s.cur.ifid.ins = true) (halign : s.pc.toNat % 4 = 0) : ∃ t, step s = .next t := by
  have hb := backStages_next hback
  rw [step_of_unmarked hmark, oneCycle_eq_backStages, hback, andThen_next]
  cases hz : hazard s3.input.fwd s3.cur s3.cur.ifid.ins with
  | true =>
    rw [idStage_of_hazard hz, andThen_next, ifStage_of_stalled (stallInId_stalled s3)]
    exact ⟨_, rfl⟩
  | false =>
    obtain ⟨s4, h4⟩ := idStage_isNext hz (by rwa [hb.cur])
    obtain ⟨_, hstalled, _⟩ := idStage_accepts h4 hz
    rw [h4, andThen_next]
    cases hred : s4.redirect with
    | some target =>
      rw [ifStage_of_redirect (by rw [hred]; rfl)]
      exact ⟨_, rfl⟩
    | none =>
      have hpc : s4.pc = s.pc := by rw [idStage_frame h4, hb.pc]
      rw [ifStage_of_no_decision hstalled hred, fetch_eq, if_neg fun hmis => hmis.1 (by rwa [hpc])]
      exact ⟨_, rfl⟩

/-- The same from the products of MEM and EX. -/
theorem step_isNext {s : State} (hmark : s.mark = none) (hwb : supported s.cur.memwb.ins = true)
    (hmem : supported s.cur.exmem.ins = true) (hex : supported s.cur.idex.ins = true) (hmemOut : s.memOut ≠ none)
    (hexOut : s.exOut ≠ none) (hid : supported s.cur.ifid.ins = true) (halign : s.pc.toNat % 4 = 0) :
    ∃ t, step s = .next t := by
  rcases backStages_supported hwb hmem hex with ⟨hnone, _⟩ | ⟨_, hnone, _⟩ | ⟨_, _, s3, hb⟩
  · exact absurd hnone hmemOut
  · exact absurd hnone hexOut
  · exact step_isNext_of_backStages hmark hb hid halign

theorem toNat_add_four_mod (x : Word) (h : x.toNat % 4 = 0) : (x + 4).toNat % 4 = 0 := by
  rw [BitVec.toNat_add]
  have hfour : (4 : Word).toNat = 4 := rfl
  omega

end Sys2Proof.Machine
end

section
/-! O58: an instruction alone in the pipeline (50_pipeline.md R300, R338). Cycle by cycle it stands in IF/ID, ID/EX,
EX/MEM and MEM/WB, with latches behind and ahead of it that do nothing; the fifth cycle writes its result. -/

namespace Sys2Proof.Machine

/-! ## Latches that do nothing -/

/-- A NOP with its signals. -/
def Idle (ins : Record) (ctl : Control) : Prop := ins = nopRecord ∧ ctl = Control.idle

theorem Idle.produces {ins : Record} {ctl : Control} (h : Idle ins ctl) (r : Reg) : produces ctl ins r = false := by
  rw [h.1, h.2]
  rfl

theorem Idle.supported {ins : Record} {ctl : Control} (h : Idle ins ctl) : supported ins = true := by
  rw [h.1]
  rfl

section
variable {s t : State}

theorem State.exOut_of_idle (h : Idle s.cur.idex.ins s.cur.idex.ctl) : s.exOut ≠ none := by
  rw [State.exOut, State.exValue, h.1]
  exact nofun

theorem State.memOut_of_idle (h : Idle s.cur.exmem.ins s.cur.exmem.ctl) :
    ∃ x, s.memOut = some (x, s.mem, s.draws) := by
  rw [State.memOut_of_instr (i := .nop) (by rw [h.1]; rfl) (by rw [h.1, h.2]; rfl)]
  exact ⟨_, rfl⟩

theorem BackEnd.idle_exmem (h : BackEnd s t) (hidle : Idle s.cur.idex.ins s.cur.idex.ctl) :
    Idle t.cur.exmem.ins t.cur.exmem.ctl := by
  rwa [h.exmem_fields.1, h.exmem_fields.2]

theorem BackEnd.idle_memwb (h : BackEnd s t) (hidle : Idle s.cur.exmem.ins s.cur.exmem.ctl) :
    Idle t.cur.memwb.ins t.cur.memwb.ctl ∧ t.mem = s.mem ∧ t.draws = s.draws := by
  obtain ⟨hins, hctl, _⟩ := h.memwb_fields
  obtain ⟨x, hx⟩ := State.memOut_of_idle hidle
  obtain ⟨_, hmem, hdraws⟩ : x = t.cur.memwb ∧ s.mem = t.mem ∧ s.draws = t.draws := by
    simpa using hx.symm.trans h.mem
  exact ⟨by rwa [hins, hctl], hmem.symm, hdraws.symm⟩

theorem BackEnd.regs_of_idle (h : BackEnd s t) (hidle : Idle s.cur.memwb.ins s.cur.memwb.ctl) : t.regs = s.regs := by
  rw [h.regs, State.writtenBack, hidle.2]
  rfl

/-- Behind a NOP in IF/ID the front end goes on: nothing waits or redirects, and IF fetches at pc. -/
theorem step_of_nop_ifid (h : step s = .next t) (hnop : s.cur.ifid.ins = nopRecord) :
    Idle t.cur.idex.ins t.cur.idex.ctl ∧ t.cur.ifid = fetched s ∧ t.pc = s.pc + 4 := by
  have hz : hazard s.input.fwd s.cur s.cur.ifid.ins = false := by
    rw [hnop]
    exact hazard_of_no_sources rfl _ _
  obtain ⟨hidex, hpc⟩ := step_accepts h hz
  have hifid := step_ifid h hz
  rw [hnop] at hidex hpc hifid
  exact ⟨by rw [hidex]; exact ⟨rfl, rfl⟩, hifid, hpc⟩

end

/-! ## The instruction and its PROG -/

/-- Before the first cycle: an empty pipeline, and at pc the one word of PROG that is not zero. -/
structure Alone (s : State) (k : Nat) (w : Word) (i : Instr) : Prop where
  cur : s.cur = Latches.empty
  mark : s.mark = none
  pc : s.pc.toNat = 4 * k
  prog : s.input.prog = List.replicate k 0 ++ [w]
  instr : decode w = .ok i

/-- `t` has the inputs, registers, memory and draws of `s`, and no mark. -/
structure Keeps (s t : State) : Prop where
  input : t.input = s.input
  regs : t.regs = s.regs
  mem : t.mem = s.mem
  draws : t.draws = s.draws
  mark : t.mark = none

/-- A cycle that idles in MEM and WB keeps them. -/
theorem Keeps.step {s u t : State} (hk : Keeps s u) (h : step u = .next t)
    (hmem : Idle u.cur.exmem.ins u.cur.exmem.ctl) (hwb : Idle u.cur.memwb.ins u.cur.memwb.ctl) : Keeps s t := by
  have hback := step_backEnd h
  obtain ⟨_, hm, hd⟩ := hback.idle_memwb hmem
  exact ⟨hback.input.trans hk.input, (hback.regs_of_idle hwb).trans hk.regs, hm.trans hk.mem, hd.trans hk.draws,
    step_mark h⟩

section
variable {s : State} {k : Nat} {w : Word} {i : Instr} (hs : Alone s k w i)
include hs

theorem Alone.aligned : s.pc.toNat % 4 = 0 := by
  rw [hs.pc]
  exact Nat.mul_mod_right 4 k

/-- A fetch at a multiple of 4 reads the word at its own address, and a NOP everywhere else. -/
theorem Alone.record_at {t : State} (hinput : t.input = s.input) (halign : t.pc.toNat % 4 = 0) :
    (fetched t).ins = if t.pc = s.pc then decodeRecord w else nopRecord := by
  have hpc := hs.pc
  rw [fetched, wordAt_aligned t halign, hinput, hs.prog]
  split
  · next heq =>
    have hindex : t.pc.toNat / 4 = k := by rw [heq]; omega
    rw [hindex, List.getElem?_append_right (by simp)]
    simp [decodeFetched]
  · next hne =>
    have hindex : t.pc.toNat / 4 ≠ k := fun h => hne (BitVec.eq_of_toNat_eq (by omega))
    rcases Nat.lt_or_gt_of_ne hindex with hlt | hgt
    · rw [List.getElem?_append_left (by simpa using hlt), List.getElem?_replicate, if_pos hlt]
      rfl
    · rw [List.getElem?_eq_none (by simp; omega)]
      rfl

theorem Alone.supported_at {t : State} (hinput : t.input = s.input) (halign : t.pc.toNat % 4 = 0) :
    supported (fetched t).ins = true := by
  rw [hs.record_at hinput halign]
  split
  · exact (supported_iff _).2 ⟨i, hs.instr⟩
  · rfl

/-! ## The five cycles -/

/-- After the first cycle the instruction is in IF/ID. -/
structure AtIfid (s : State) (q : Record) (id : Option Nat) (t : State) : Prop extends Keeps s t where
  ifid : t.cur.ifid = ⟨q, s.pc, id⟩
  idex : Idle t.cur.idex.ins t.cur.idex.ctl
  exmem : Idle t.cur.exmem.ins t.cur.exmem.ctl
  memwb : Idle t.cur.memwb.ins t.cur.memwb.ctl
  pc : t.pc = s.pc + 4

theorem Alone.idle : Idle s.cur.idex.ins s.cur.idex.ctl ∧ Idle s.cur.exmem.ins s.cur.exmem.ctl ∧
    Idle s.cur.memwb.ins s.cur.memwb.ctl ∧ s.cur.ifid.ins = nopRecord := by
  rw [hs.cur]
  exact ⟨⟨rfl, rfl⟩, ⟨rfl, rfl⟩, ⟨rfl, rfl⟩, rfl⟩

theorem Alone.atIfid {t : State} (h : step s = .next t) : ∃ id, AtIfid s (decodeRecord w) id t := by
  obtain ⟨hidex, hexmem, hmemwb, hnop⟩ := hs.idle
  obtain ⟨hidex', hifid, hpc⟩ := step_of_nop_ifid h hnop
  have hback := step_backEnd h
  have hrecord := hs.record_at rfl hs.aligned
  rw [if_pos rfl] at hrecord
  refine ⟨(fetched s).id, Keeps.step ⟨rfl, rfl, rfl, rfl, hs.mark⟩ h hexmem hmemwb, ?_, hidex',
    hback.idle_exmem hidex, (hback.idle_memwb hexmem).1, hpc⟩
  rw [hifid, ← hrecord]
  rfl

end

section
variable {s e u t : State} {q : Record} {id : Option Nat} {i : Instr}

theorem AtIfid.no_producer (hu : AtIfid s q id u) : NoProducerAhead u.cur q :=
  fun r _ => ⟨hu.exmem.produces r, hu.memwb.produces r⟩

/-- After the second it is in ID/EX with the registers of `s`, and pc is its target or 8 on. -/
structure AtIdex (s : State) (q : Record) (id : Option Nat) (t : State) : Prop extends Keeps s t where
  idex : t.cur.idex = idexOf q s.pc id s
  exmem : Idle t.cur.exmem.ins t.cur.exmem.ctl
  memwb : Idle t.cur.memwb.ins t.cur.memwb.ctl
  ifid : t.cur.ifid.ins = nopRecord
  pc : t.pc = (redirectOf q s.pc (s.operand q.rs1) (s.operand q.rs2)).getD (s.pc + 4 + 4)

theorem AtIfid.next (hu : AtIfid s q id u) (hbehind : (fetched u).ins = nopRecord) (h : step u = .next t) :
    AtIdex s q id t := by
  have hback := step_backEnd h
  have hkeeps := hu.toKeeps.step h hu.exmem hu.memwb
  have hz : hazard u.input.fwd u.cur u.cur.ifid.ins = false :=
    hazard_of_no_producer (fun r _ => hu.idex.produces r) (fun r _ => hu.exmem.produces r) _
  obtain ⟨hidex, hpc⟩ := step_accepts h hz
  have hifid := step_ifid h hz
  rw [hu.ifid] at hidex hpc hifid
  have hop {r : Option Reg} (hr : ∀ x, r = some x → x ∈ q.sources) :
      { u with regs := t.regs }.operandInId r = s.operand r :=
    State.operandInId_operand (u := { u with regs := t.regs }) hr hu.no_producer hkeeps.regs
  rw [hop fun r => mem_sources_of_rs1, hop fun r => mem_sources_of_rs2] at hidex
  refine ⟨hkeeps, hidex, hback.idle_exmem hu.idex, (hback.idle_memwb hu.exmem).1, ?_, ?_⟩
  · rw [hifid]
    split
    · rfl
    · exact hbehind
  · rw [hpc, hidex, hu.pc]

/-- After the third it is in EX/MEM with its result, and the word at the pc it went to has been fetched. -/
structure AtExmem (s : State) (q : Record) (id : Option Nat) (r : Word) (u t : State) : Prop extends Keeps s t where
  idex : Idle t.cur.idex.ins t.cur.idex.ctl
  exmem : t.cur.exmem = exmemOf q s.pc id s r
  memwb : Idle t.cur.memwb.ins t.cur.memwb.ctl
  ifid : t.cur.ifid = fetched u
  pc : t.pc = u.pc + 4

theorem AtIdex.exOut (hu : AtIdex s q id u) {r : Word}
    (hr : exResult s.input.divOverflow q (control q) s.pc (s.operand q.rs1) (s.operand q.rs2) = some r) :
    u.exOut = some (exmemOf q s.pc id s r) :=
  State.exOut_of_latch hu.idex (fun x _ => ⟨hu.exmem.produces x, hu.memwb.produces x⟩) (by rw [hu.input]; exact hr)

theorem AtIdex.next (hu : AtIdex s q id u) {r : Word}
    (hr : exResult s.input.divOverflow q (control q) s.pc (s.operand q.rs1) (s.operand q.rs2) = some r)
    (h : step u = .next t) : AtExmem s q id r u t := by
  have hback := step_backEnd h
  obtain ⟨hidex, hifid, hpc⟩ := step_of_nop_ifid h hu.ifid
  exact ⟨hu.toKeeps.step h hu.exmem hu.memwb, hidex, Option.some.inj (hback.ex.symm.trans (hu.exOut hr)),
    (hback.idle_memwb hu.exmem).1, hifid, hpc⟩

/-- After the fourth it is in MEM/WB, its data access made. -/
structure AtMemwb (s : State) (q : Record) (id : Option Nat) (r v : Word) (b : Arch) (t : State) : Prop where
  regs : t.regs = s.regs
  mem : t.mem = b.mem
  draws : t.draws = b.draws
  mark : t.mark = none
  exmem : Idle t.cur.exmem.ins t.cur.exmem.ctl
  memwb : t.cur.memwb = memwbOf q s.pc id r v

theorem AtExmem.memOut {r v : Word} {b : Arch} {u' : State} (hu : AtExmem s q id r u' u) (hi : q.instr = .ok i)
    (haccess : s.accessed i.loadKind i.storeKind r (s.operand q.rs2) = some (v, b.mem, b.draws)) :
    u.memOut = some (memwbOf q s.pc id r v, b.mem, b.draws) := by
  have hstore : u.storeValue = s.operand q.rs2 := by
    rw [State.storeValue_eq, if_neg, hu.exmem]
    · rfl
    · rintro ⟨_, hwrite, _⟩
      rw [hu.memwb.2] at hwrite
      cases hwrite
  refine State.memOut_of_latch hi hu.exmem ?_
  rw [hstore, State.accessed_congr hu.input hu.mem hu.draws, haccess]

theorem AtExmem.next {r v : Word} {b : Arch} {u' : State} (hu : AtExmem s q id r u' u) (hi : q.instr = .ok i)
    (haccess : s.accessed i.loadKind i.storeKind r (s.operand q.rs2) = some (v, b.mem, b.draws))
    (h : step u = .next t) : AtMemwb s q id r v b t := by
  have hback := step_backEnd h
  obtain ⟨hmemwb, hmem, hdraws⟩ : t.cur.memwb = memwbOf q s.pc id r v ∧ t.mem = b.mem ∧ t.draws = b.draws := by
    simpa using hback.mem.symm.trans (hu.memOut hi haccess)
  exact ⟨(hback.regs_of_idle hu.memwb).trans hu.regs, hmem, hdraws, step_mark h, hback.idle_exmem hu.idex, hmemwb⟩

/-- The fifth writes its destination. -/
theorem AtMemwb.next {r v : Word} {b : Arch} (hu : AtMemwb s q id r v b u) (hi : q.instr = .ok i)
    (hb : b.regs = (s.writeDest q.rd (if i.loadKind.isSome then v else r)).regs) (h : step u = .next t) :
    t.regs = b.regs ∧ t.mem = b.mem ∧ t.draws = b.draws := by
  have hback := step_backEnd h
  obtain ⟨_, hmem, hdraws⟩ := hback.idle_memwb hu.exmem
  refine ⟨?_, hmem.trans hu.mem, hdraws.trans hu.draws⟩
  rw [hback.regs, hb]
  exact State.writtenBack_of_latch hi hu.memwb hu.regs

end

/-! ## A run of cycles -/

theorem core_run_succ {k : Nat} {s t : State} : Host.Core.run Sys2Proof.core (k + 1) s = .next t ↔
    ∃ u, step s = .next u ∧ Host.Core.run Sys2Proof.core k u = .next t := by
  have hrun : Host.Core.run Sys2Proof.core (k + 1) s = andThen (step s) (Host.Core.run Sys2Proof.core k) := by
    have hstep : Sys2Proof.core.step s = step s := rfl
    simp only [Host.Core.run, hstep]
    cases step s <;> rfl
  rw [hrun]
  constructor
  · exact andThen_eq_next
  · rintro ⟨u, hu, ht⟩
    rw [hu]
    exact ht

/-! ## Jumps to oneself -/

theorem add_four_ne_self (x : Word) : x + 4 ≠ x := by bv_omega

theorem add_eight_ne_self (x : Word) : x + 4 + 4 ≠ x := by bv_omega

/-- A record that redirects has an EX result whatever its operands, so it never faults there (R305). -/
theorem exResult_ne_none_of_redirect {q : Record} {ipc a b x : Word} (h : redirectOf q ipc a b = some x)
    (p : DivOverflow) (ipc' a' b' : Word) : exResult p q (control q) ipc' a' b' ≠ none := by
  obtain ⟨raw, op, payload⟩ := q
  cases payload with
  | r | s | u | nop | unknown => cases h
  | i =>
    by_cases h67 : op = 0x67
    · simp [exResult, h67]
    · cases (if_neg h67).symm.trans h
  | b | j => exact nofun

/-- A branch or JAL that jumps to itself once has no other target than itself and the next word. -/
theorem redirectOf_of_self {q : Record} {i : Instr} (hi : q.instr = .ok i) (hjalr : ∀ rd rs1 imm, i ≠ .jalr rd rs1 imm)
    {ipc a b a' b' x : Word} (h : redirectOf q ipc a b = some ipc) (h' : redirectOf q ipc a' b' = some x) :
    x = ipc ∨ x = ipc + 4 := by
  obtain ⟨raw, op, payload⟩ := q
  cases payload with
  | r | s | u | nop | unknown => cases h
  | i rd rs1 f3 imm =>
    by_cases h67 : op = 0x67
    · subst h67
      exact absurd (Except.ok.inj hi).symm (hjalr rd rs1 imm)
    · cases (if_neg h67).symm.trans h
  | b rs1 rs2 f3 imm =>
    have hself := Option.some.inj h
    have hx := Option.some.inj h'
    split at hself
    · split at hx
      · exact .inl (hx.symm.trans hself)
      · exact .inr hx.symm
    · exact absurd hself (add_four_ne_self ipc)
  | j rd imm => exact .inl ((Option.some.inj h').symm.trans (Option.some.inj h))

section
variable {s e : State} {k : Nat} {w : Word} {i : Instr} (hs : Alone s k w i)
include hs

/-- Behind the instruction PROG has nothing. -/
theorem Alone.nop_behind {id : Option Nat} {u : State} (hu : AtIfid s (decodeRecord w) id u) :
    (fetched u).ins = nopRecord := by
  have hne : ¬u.pc = s.pc := by
    rw [hu.pc]
    exact add_four_ne_self s.pc
  rw [hs.record_at hu.input (by rw [hu.pc]; exact toNat_add_four_mod _ hs.aligned), if_neg hne]

/-- What five cycles leave is what the whole instruction leaves. -/
theorem Alone.run_eq {b : Arch} {t : State} (hexec : Executes s (decodeRecord w) s.pc b)
    (h : Host.Core.run Sys2Proof.core 5 s = .next t) : t.regs = b.regs ∧ t.mem = b.mem ∧ t.draws = b.draws := by
  obtain ⟨r, hr, j, v, hj, haccess, hregs⟩ := hexec
  obtain ⟨t1, h1, h⟩ := core_run_succ.1 h
  obtain ⟨t2, h2, h⟩ := core_run_succ.1 h
  obtain ⟨t3, h3, h⟩ := core_run_succ.1 h
  obtain ⟨t4, h4, h⟩ := core_run_succ.1 h
  obtain ⟨t5, h5, h⟩ := core_run_succ.1 h
  obtain rfl := Host.Outcome.next.inj h
  obtain ⟨id, ht1⟩ := hs.atIfid h1
  exact (((ht1.next (hs.nop_behind ht1) h2).next hr h3).next hj haccess h4).next hj hregs h5

/-! ## The five cycles complete -/

/-- The fourth cycle's IF/ID, ID/EX and pc let the fifth complete: what is there is a NOP, or again the instruction,
which then jumped to itself. -/
theorem Alone.fifth_front {id : Option Nat} {r : Word} {u t3 t4 : State} (hu : AtIdex s (decodeRecord w) id u)
    (ht3 : AtExmem s (decodeRecord w) id r u t3) (halign : u.pc.toNat % 4 = 0)
    (hjalr : u.pc = s.pc → ∀ rd rs1 imm, i ≠ .jalr rd rs1 imm) (h : step t3 = .next t4) :
    supported t4.cur.idex.ins = true ∧ t4.exOut ≠ none ∧ supported t4.cur.ifid.ins = true ∧ t4.pc.toNat % 4 = 0 := by
  have halign3 : t3.pc.toNat % 4 = 0 := by rw [ht3.pc]; exact toNat_add_four_mod _ halign
  have hsup3 : supported t3.cur.ifid.ins = true := by rw [ht3.ifid]; exact hs.supported_at hu.input halign
  have hsup4 : supported t4.cur.ifid.ins = true := by
    rcases step_ifid_cases h with hifid | hifid | hifid
    · rw [hifid]; exact hs.supported_at ht3.input halign3
    · rw [hifid]; rfl
    · rwa [hifid]
  by_cases hnop : t3.cur.ifid.ins = nopRecord
  · obtain ⟨hidle, _, hpc⟩ := step_of_nop_ifid h hnop
    refine ⟨hidle.supported, State.exOut_of_idle hidle, hsup4, ?_⟩
    rw [hpc]
    exact toNat_add_four_mod _ halign3
  · have hins := hs.record_at hu.input halign
    rw [← ht3.ifid] at hins
    have hself : u.pc = s.pc := by
      by_contra hne
      exact hnop (hins.trans (if_neg hne))
    rw [if_pos hself] at hins
    have hpc3 : t3.cur.ifid.pc = s.pc := by rw [ht3.ifid]; exact hself
    have hredirect : redirectOf (decodeRecord w) s.pc (s.operand (decodeRecord w).rs1) (s.operand (decodeRecord w).rs2) =
        some s.pc := by
      have hpc := hu.pc
      rw [hself] at hpc
      cases hr : redirectOf (decodeRecord w) s.pc (s.operand (decodeRecord w).rs1) (s.operand (decodeRecord w).rs2) with
      | some x => rw [hpc, hr]; rfl
      | none =>
        rw [hr] at hpc
        exact absurd hpc.symm (add_eight_ne_self s.pc)
    refine ⟨?_, ?_, hsup4, ?_⟩
    · rcases step_idex_cases h with hidex | ⟨_, a, b, _, _, hidex⟩
      · rw [hidex]; rfl
      · rw [hidex]; exact hsup3
    · rcases step_idex_cases h with hidex | ⟨_, a, b, _, _, hidex⟩
      · rw [State.exOut_of_bubble hidex]
        exact nofun
      · rw [State.exOut, State.exValue, hidex, hins, ne_eq, Option.map_eq_none_iff]
        exact exResult_ne_none_of_redirect hredirect _ _ _ _
    · cases hz : hazard t3.input.fwd t3.cur t3.cur.ifid.ins with
      | true => rw [step_stalls_pc h hz]; exact halign3
      | false =>
        rw [(step_accepts h hz).2, hins, hpc3]
        cases hr : redirectOf (decodeRecord w) s.pc t4.cur.idex.a t4.cur.idex.b with
        | none => exact toNat_add_four_mod _ halign3
        | some x =>
          rcases redirectOf_of_self hs.instr (hjalr hself) hredirect hr with rfl | rfl
          · exact hs.aligned
          · exact toNat_add_four_mod _ hs.aligned

/-- Five cycles complete where the instruction does as a whole, to a multiple of 4, and is no JALR to itself. -/
theorem Alone.run_isNext {b : Arch} (hexec : Executes s (decodeRecord w) s.pc b)
    (hpc : b.pc = (redirectOf (decodeRecord w) s.pc (s.operand (decodeRecord w).rs1)
      (s.operand (decodeRecord w).rs2)).getD (s.pc + 4)) (halign : b.pc.toNat % 4 = 0)
    (hjalr : ∀ rd rs1 imm, i = .jalr rd rs1 imm → b.pc ≠ s.pc) :
    ∃ t, Host.Core.run Sys2Proof.core 5 s = .next t := by
  obtain ⟨r, hr, j, v, hj, haccess, hregs⟩ := hexec
  have hsup : supported (decodeRecord w) = true := (supported_iff _).2 ⟨i, hs.instr⟩
  obtain ⟨hidex, hexmem, hmemwb, hnop⟩ := hs.idle
  obtain ⟨_, hm⟩ := State.memOut_of_idle hexmem
  obtain ⟨t1, h1⟩ := step_isNext hs.mark hmemwb.supported hexmem.supported hidex.supported (by rw [hm]; exact nofun)
    (State.exOut_of_idle hidex) (by rw [hnop]; rfl) hs.aligned
  obtain ⟨id, ht1⟩ := hs.atIfid h1
  obtain ⟨_, hm1⟩ := State.memOut_of_idle ht1.exmem
  obtain ⟨t2, h2⟩ := step_isNext ht1.mark ht1.memwb.supported ht1.exmem.supported ht1.idex.supported
    (by rw [hm1]; exact nofun) (State.exOut_of_idle ht1.idex) (by rw [ht1.ifid]; exact hsup)
    (by rw [ht1.pc]; exact toNat_add_four_mod _ hs.aligned)
  have ht2 := ht1.next (hs.nop_behind ht1) h2
  have hpc2 : t2.pc.toNat % 4 = 0 ∧ (t2.pc = s.pc → b.pc = s.pc) := by
    rw [ht2.pc]
    rw [hpc] at halign ⊢
    cases hred : redirectOf (decodeRecord w) s.pc (s.operand (decodeRecord w).rs1) (s.operand (decodeRecord w).rs2) with
    | some x => rw [hred] at halign; exact ⟨halign, fun h => h⟩
    | none =>
      refine ⟨toNat_add_four_mod _ (toNat_add_four_mod _ hs.aligned), fun h => ?_⟩
      exact absurd h (add_eight_ne_self s.pc)
  obtain ⟨_, hm2⟩ := State.memOut_of_idle ht2.exmem
  obtain ⟨t3, h3⟩ := step_isNext ht2.mark ht2.memwb.supported ht2.exmem.supported (by rw [ht2.idex]; exact hsup)
    (by rw [hm2]; exact nofun) (by rw [ht2.exOut hr]; exact nofun) (by rw [ht2.ifid]; rfl) hpc2.1
  have ht3 := ht2.next hr h3
  obtain ⟨t4, h4⟩ := step_isNext ht3.mark ht3.memwb.supported (by rw [ht3.exmem]; exact hsup) ht3.idex.supported
    (by rw [ht3.memOut hj haccess]; exact nofun) (State.exOut_of_idle ht3.idex)
    (by rw [ht3.ifid]; exact hs.supported_at ht2.input hpc2.1) (by rw [ht3.pc]; exact toNat_add_four_mod _ hpc2.1)
  have ht4 := ht3.next hj haccess h4
  obtain ⟨hsup4, hex4, hifid4, hpc4⟩ := hs.fifth_front ht2 ht3 hpc2.1
    (fun h rd rs1 imm hi => hjalr rd rs1 imm hi (hpc2.2 h)) h4
  obtain ⟨_, hm4⟩ := State.memOut_of_idle ht4.exmem
  obtain ⟨t5, h5⟩ := step_isNext ht4.mark (by rw [ht4.memwb]; exact hsup) ht4.exmem.supported hsup4
    (by rw [hm4]; exact nofun) hex4 hifid4 hpc4
  exact ⟨t5, core_run_succ.2 ⟨t1, h1, core_run_succ.2 ⟨t2, h2, core_run_succ.2 ⟨t3, h3, core_run_succ.2 ⟨t4, h4,
    core_run_succ.2 ⟨t5, h5, rfl⟩⟩⟩⟩⟩⟩

end

/-- Settles O58: the instruction moves through the four latches, and its fifth cycle writes what `exec` writes. -/
theorem instructionRetiredAlone : Obligations.InstructionRetiredAlone := by
  unfold Obligations.InstructionRetiredAlone
  intro s e k w i hcur hmark hwhole hk hpc hprog hi h halign
  have hpcNat : s.pc.toNat = 4 * k := by rw [hpc, BitVec.toNat_ofNat, Nat.mod_eq_of_lt hk]
  have hs : Alone s k w i := ⟨hcur, hmark, hpcNat, hprog, hi⟩
  obtain ⟨hexec, hpc'⟩ := executes_of_exec (ins := decodeRecord w) hi hwhole h
  exact ⟨fun hjalr => hs.run_isNext hexec hpc' halign hjalr, fun t ht => hs.run_eq hexec ht⟩

end Sys2Proof.Machine
end

section
/-! O60: the step behind `withFetchWord`. The placed word stands in every latch with the registers of the state as its
operands, so one step does all of its work (50_pipeline.md R300, log 4). -/

namespace Sys2Proof.Machine

/-! ## The state behind a placing -/

theorem placeAtPc_aligned (s : State) (w : Word) : (s.placeAtPc w).pc.toNat % 4 = 0 := by
  have hpc : (s.placeAtPc w).pc.toNat = s.pc.toNat &&& 0xFFFFFFFC := BitVec.toNat_and ..
  rw [hpc, show 4 = 2 ^ 2 from rfl, Nat.and_mod_two_pow]
  exact Nat.and_zero _

theorem fetched_placeAtPc (s : State) (w : Word) : (fetched (s.placeAtPc w)).ins = decodeRecord w := by
  have hword : (s.placeAtPc w).wordAt (s.placeAtPc w).pc = some w := by
    rw [wordAt_aligned _ (placeAtPc_aligned s w)]
    exact placeWord_get _ _ _
  rw [fetched, hword]
  rfl

/-- One instruction in every latch, each as the stage before it made it from the registers, but for an IF/ID that
would wait for itself. -/
structure Placed (q : Record) (id : Option Nat) (i : Instr) (r v : Word) (p : State) : Prop where
  instr : q.instr = .ok i
  mark : p.mark = none
  aligned : p.pc.toNat % 4 = 0
  fetched : fetched p = ⟨q, p.pc, id⟩
  ifid : p.cur.ifid = if hazard p.input.fwd p.cur q then IfId.empty else ⟨q, p.pc, id⟩
  idex : p.cur.idex = idexOf q p.pc id p
  exmem : p.cur.exmem = exmemOf q p.pc id p r
  memwb : p.cur.memwb = memwbOf q p.pc id r v

/-! ## Filling the latches -/

section
variable {a z : State} {q : Record} {pc : Word} {id : Option Nat}

theorem State.fillIdex_of_accepted (hifid : a.cur.ifid = ⟨q, pc, id⟩) (hsup : supported q = true)
    (hz : hazard a.input.fwd a.cur q = false) (hno : NoProducerAhead a.cur q) (hregs : a.regs = z.regs) :
    a.fillIdex = { a with cur := { a.cur with idex := idexOf q pc id z } } := by
  have hins : a.cur.ifid.ins = q := by rw [hifid]
  obtain ⟨t, ht⟩ := idStage_isNext (s := a) (by rwa [hins]) (by rwa [hins])
  obtain ⟨hidex, _⟩ := idStage_accepts ht (by rwa [hins])
  rw [hifid, State.operandInId_operand (fun r => mem_sources_of_rs1) hno hregs,
    State.operandInId_operand (fun r => mem_sources_of_rs2) hno hregs] at hidex
  rw [State.fillIdex, ht, State.takeFrom, hidex]
  rfl

theorem State.fillExmem_of_result {x : ExMem} (hsup : supported a.cur.idex.ins = true) (hx : a.exOut = some x) :
    a.fillExmem = { a with cur := { a.cur with exmem := x } } := by
  rcases exStage_supported hsup with ⟨hnone, _⟩ | ⟨t, ht, hout⟩
  · cases hx.symm.trans hnone
  · rw [State.fillExmem, ht, State.takeFrom, Option.some.inj (hx.symm.trans hout)]

theorem State.fillMemwb_of_access {y : MemWb} {m : Memory} {n : Nat} (hsup : supported a.cur.exmem.ins = true)
    (hy : a.memOut = some (y, m, n)) : a.fillMemwb = { a with cur := { a.cur with memwb := y } } := by
  rcases memStage_supported hsup with ⟨hnone, _⟩ | ⟨t, ht, hout⟩
  · cases hy.symm.trans hnone
  · obtain ⟨rfl, _⟩ := Prod.mk.inj (Option.some.inj (hy.symm.trans hout))
    rw [State.fillMemwb, ht, State.takeFrom]

end

/-- The latches with the instruction in each. -/
def latchesOf (q : Record) (pc : Word) (id : Option Nat) (z : State) (r v : Word) : Latches :=
  ⟨⟨q, pc, id⟩, idexOf q pc id z, exmemOf q pc id z r, memwbOf q pc id r v⟩

/-- From an empty pipeline, the stages fill the latches one after the other with the instruction's own. -/
theorem State.fill_latches {z : State} {q : Record} {id : Option Nat} {i : Instr} {r v : Word} {m : Memory} {n : Nat}
    (hempty : z.cur = Latches.empty) (hfetched : fetched z = ⟨q, z.pc, id⟩) (hi : q.instr = .ok i)
    (hr : exResult z.input.divOverflow q (control q) z.pc (z.operand q.rs1) (z.operand q.rs2) = some r)
    (haccess : z.accessed i.loadKind i.storeKind r (z.operand q.rs2) = some (v, m, n)) :
    z.fillIfid.fillIdex.fillExmem.fillMemwb = { z with cur := latchesOf q z.pc id z r v } := by
  have hsup : supported q = true := (supported_iff q).2 ⟨i, hi⟩
  have hifid : z.fillIfid =
      { z with cur := ⟨⟨q, z.pc, id⟩, IdEx.empty, ExMem.empty, MemWb.empty⟩ } := by
    rw [State.fillIfid, hempty, hfetched]
    rfl
  have hidex : State.fillIdex { z with cur := ⟨⟨q, z.pc, id⟩, IdEx.empty, ExMem.empty, MemWb.empty⟩ } =
      { z with cur := ⟨⟨q, z.pc, id⟩, idexOf q z.pc id z, ExMem.empty, MemWb.empty⟩ } :=
    State.fillIdex_of_accepted rfl hsup (hazard_of_bubbles rfl rfl _ _) (fun _ _ => ⟨rfl, rfl⟩) rfl
  have hexmem : State.fillExmem { z with cur := ⟨⟨q, z.pc, id⟩, idexOf q z.pc id z, ExMem.empty, MemWb.empty⟩ } =
      { z with cur := ⟨⟨q, z.pc, id⟩, idexOf q z.pc id z, exmemOf q z.pc id z r, MemWb.empty⟩ } :=
    State.fillExmem_of_result hsup (State.exOut_of_latch rfl (fun _ _ => ⟨rfl, rfl⟩) hr)
  rw [hifid, hidex, hexmem]
  refine State.fillMemwb_of_access hsup (State.memOut_of_latch (z := z) hi rfl (m := m) (n := n) ?_)
  rw [State.storeValue_eq, if_neg (fun h => nomatch h.2.1)]
  refine Eq.trans ?_ haccess
  exact State.accessed_congr (by rfl) (by rfl) (by rfl) _ _ _ _

theorem Placed.of_latches {z : State} {q : Record} {id : Option Nat} {i : Instr} (r v : Word) (hi : q.instr = .ok i)
    (hmark : z.mark = none) (haligned : z.pc.toNat % 4 = 0) (hfetched : Machine.fetched z = ⟨q, z.pc, id⟩) :
    Placed q id i r v (State.clearHazard { z with cur := latchesOf q z.pc id z r v }).settle := by
  unfold State.clearHazard
  split
  · next hz => exact ⟨hi, hmark, haligned, hfetched, (if_pos hz).symm, rfl, rfl, rfl⟩
  · next hz => exact ⟨hi, hmark, haligned, hfetched, (if_neg hz).symm, rfl, rfl, rfl⟩

theorem ofNat_toNat_mod (w : Word) : BitVec.ofNat 32 (w.toNat % 2 ^ 32) = w := by
  rw [Nat.mod_eq_of_lt w.isLt, BitVec.ofNat_toNat, BitVec.setWidth_eq]

section
variable {s : State} {w : Word}

/-- Placing a word changes inputs, registers, memory, draws and pc as placing it in PROG does. -/
theorem State.withFetchWord_eq (s : State) (w : Word) :
    ∃ c, s.withFetchWord 32 w.toNat = { s.placeAtPc w with cur := c, nxt := c } := by
  refine ⟨(s.withFetchWord 32 w.toNat).cur, ?_⟩
  conv_lhs => rw [State.withFetchWord_frame, ofNat_toNat_mod]

/-- An instruction that completes as a whole from where it is placed is in the latches. -/
theorem placed_withFetchWord {i : Instr} {r v : Word} {m : Memory} {n : Nat} (hi : decode w = .ok i) {p : State}
    (hp : s.withFetchWord 32 w.toNat = p)
    (hr : exResult p.input.divOverflow (decodeRecord w) (control (decodeRecord w)) p.pc
      (p.operand (decodeRecord w).rs1) (p.operand (decodeRecord w).rs2) = some r)
    (haccess : p.accessed i.loadKind i.storeKind r (p.operand (decodeRecord w).rs2) = some (v, m, n)) :
    ∃ id, Placed (decodeRecord w) id i r v p := by
  obtain ⟨c, hc⟩ := s.withFetchWord_eq w
  have hregs : p.regs = (s.placeAtPc w).regs := by rw [← hp, hc]
  rw [State.operand_congr hregs, State.operand_congr hregs] at hr
  rw [State.operand_congr hregs, State.accessed_congr (s := s.placeAtPc w) (by rw [← hp, hc]) (by rw [← hp, hc])
    (by rw [← hp, hc])] at haccess
  have hinput : p.input = (s.placeAtPc w).input := by rw [← hp, hc]
  have hpc : p.pc = (s.placeAtPc w).pc := by rw [← hp, hc]
  rw [hinput, hpc] at hr
  have hfetched : fetched (s.placeAtPc w) = ⟨decodeRecord w, (s.placeAtPc w).pc, (fetched (s.placeAtPc w)).id⟩ := by
    rw [← fetched_placeAtPc s w]
    rfl
  refine ⟨(fetched (s.placeAtPc w)).id, ?_⟩
  rw [← hp, State.withFetchWord, ofNat_toNat_mod, State.fill_latches rfl hfetched hi hr haccess]
  exact Placed.of_latches r v hi rfl (placeAtPc_aligned s w) hfetched

end

/-! ## The step -/

/-- What redirects and reads its own destination is a JALR through it. -/
theorem jalr_of_own_source {q : Record} {i : Instr} {r : Reg} (hi : q.instr = .ok i) (hred : redirects q = true)
    (hr : r ∈ q.sources) (hrd : q.rd = some r) : ∃ imm, i = .jalr r r imm := by
  obtain ⟨raw, op, payload⟩ := q
  cases payload with
  | s | b | nop | unknown => cases hrd
  | u | j => cases hr
  | r =>
    obtain rfl : op = 0x33 := by
      by_contra hop
      cases (if_neg hop).symm.trans hi
    cases hred
  | i rd rs1 f3 imm =>
    cases Option.some.inj hrd
    obtain rfl : r = rs1 := List.mem_singleton.1 hr
    simp only [redirects, Bool.or_eq_true, beq_iff_eq] at hred
    obtain (rfl | rfl) | rfl := hred
    · cases hi
    · cases hi
    · exact ⟨imm, (Except.ok.inj hi).symm⟩

section
variable {q : Record} {id : Option Nat} {i : Instr} {r v : Word} {p t : State} (hp : Placed q id i r v p)
include hp

theorem Placed.produces_eq (x : Reg) : produces p.cur.idex.ctl p.cur.idex.ins x = produces (control q) q x ∧
    produces p.cur.exmem.ctl p.cur.exmem.ins x = produces (control q) q x ∧
    produces p.cur.memwb.ctl p.cur.memwb.ins x = produces (control q) q x := by
  rw [hp.idex, hp.exmem, hp.memwb]
  exact ⟨rfl, rfl, rfl⟩

theorem Placed.supported : supported q = true := (supported_iff q).2 ⟨i, hp.instr⟩

theorem Placed.noProducerAhead (h : ∀ x ∈ q.sources, produces (control q) q x = false) : NoProducerAhead p.cur q :=
  fun x hx => ⟨(hp.produces_eq x).2.1.trans (h x hx), (hp.produces_eq x).2.2.trans (h x hx)⟩

/-- An instruction that waits for itself reads its destination. -/
theorem Placed.own_source_of_hazard (hz : hazard p.input.fwd p.cur q = true) :
    ∃ x ∈ q.sources, q.rd = some x ∧ x ≠ 0 := by
  by_contra hno
  have hnone : ∀ x ∈ q.sources, produces (control q) q x = false := by
    intro x hx
    rw [Bool.eq_false_iff, ne_eq, produces_iff]
    rintro ⟨_, hrd, hx0⟩
    exact hno ⟨x, hx, hrd, hx0⟩
  rw [hazard_of_no_producer (fun x hx => (hp.produces_eq x).1.trans (hnone x hx))
    (fun x hx => (hp.produces_eq x).2.1.trans (hnone x hx))] at hz
  cases hz

theorem Placed.memOut {m : Memory} {n : Nat}
    (haccess : p.accessed i.loadKind i.storeKind r (p.operand q.rs2) = some (v, m, n)) :
    p.memOut = some (memwbOf q p.pc id r v, m, n) := by
  refine State.memOut_of_latch hp.instr hp.exmem ?_
  rcases dest_or_storeKind_none i with hdest | hstore
  · have hrd : q.rd = none := (operands_of_instr hp.instr).2.1.trans hdest
    rw [State.storeValue_eq, if_neg, hp.exmem]
    · exact haccess
    · rintro ⟨_, _, _, hsome, _⟩
      rw [hp.memwb, memwbOf, hrd] at hsome
      cases hsome
  · rw [hstore] at haccess ⊢
    rwa [State.accessed_of_no_store _ _ _ _ (p.operand q.rs2)]

/-- EX completes: only a DIV can fault there, and one that reads no destination of its own has its operands from the
registers. -/
theorem Placed.exOut_ne_none
    (hr : exResult p.input.divOverflow q (control q) p.pc (p.operand q.rs1) (p.operand q.rs2) = some r)
    (hdiv : p.input.divOverflow = .fault → ∀ rd rs1 rs2, i = .div rd rs1 rs2 → rd ≠ 0 → rd ≠ rs1 ∧ rd ≠ rs2) :
    p.exOut ≠ none := by
  have hins : p.cur.idex.ins = q := by rw [hp.idex]; rfl
  intro hnone
  obtain ⟨hfault, rd, rs1, rs2, hi, _⟩ := (exOut_eq_none_iff (by rw [hins]; exact hp.supported)).1 hnone
  rw [hins] at hi
  obtain rfl := Except.ok.inj (hp.instr.symm.trans hi)
  obtain ⟨hsources, hrd, _⟩ := operands_of_instr hi
  have hno : NoProducerAhead p.cur q := hp.noProducerAhead fun x hx => by
    rw [Bool.eq_false_iff, ne_eq, produces_iff, hrd]
    rintro ⟨_, hx', hx0⟩
    obtain rfl := Option.some.inj hx'
    rw [hsources] at hx
    obtain ⟨h1, h2⟩ := hdiv hfault rd rs1 rs2 rfl hx0
    simp [Instr.sources, h1, h2] at hx
  cases (State.exOut_of_latch hp.idex hno hr).symm.trans hnone

theorem Placed.step_isNext {m : Memory} {n : Nat}
    (hr : exResult p.input.divOverflow q (control q) p.pc (p.operand q.rs1) (p.operand q.rs2) = some r)
    (haccess : p.accessed i.loadKind i.storeKind r (p.operand q.rs2) = some (v, m, n))
    (hdiv : p.input.divOverflow = .fault → ∀ rd rs1 rs2, i = .div rd rs1 rs2 → rd ≠ 0 → rd ≠ rs1 ∧ rd ≠ rs2) :
    ∃ t, step p = .next t := by
  have hsup := hp.supported
  have hifid : Machine.supported p.cur.ifid.ins = true := by
    rw [hp.ifid]
    split
    · rfl
    · exact hsup
  exact Machine.step_isNext hp.mark (by rw [hp.memwb]; exact hsup) (by rw [hp.exmem]; exact hsup)
    (by rw [hp.idex]; exact hsup) (by rw [hp.memOut haccess]; exact nofun) (hp.exOut_ne_none hr hdiv) hifid hp.aligned

/-- The step's ID redirects as the registers before it say, a JALR through its own destination left out. -/
theorem Placed.step_pc (h : step p = .next t) (hjalr : ∀ rd imm, i = .jalr rd rd imm → rd = 0) :
    t.pc = (redirectOf q p.pc (p.operand q.rs1) (p.operand q.rs2)).getD (p.pc + 4) := by
  cases hz : hazard p.input.fwd p.cur q with
  | true =>
    have hnop : p.cur.ifid.ins = nopRecord := by rw [hp.ifid, if_pos hz]; rfl
    have hred : redirects q = false := by
      rw [Bool.eq_false_iff]
      intro hred
      obtain ⟨x, hx, hrd, hx0⟩ := hp.own_source_of_hazard hz
      obtain ⟨imm, hi⟩ := jalr_of_own_source hp.instr hred hx hrd
      exact hx0 (hjalr x imm hi)
    rw [(step_of_nop_ifid h hnop).2.2, redirectOf_eq_none hp.supported hred]
    rfl
  | false =>
    have hifid : p.cur.ifid = ⟨q, p.pc, id⟩ := hp.ifid.trans (if_neg (by rw [hz]; exact nofun))
    obtain ⟨hidex, hpc⟩ := step_accepts h (by rwa [hifid])
    rw [hifid] at hidex hpc
    rw [hpc]
    refine congrArg (·.getD (p.pc + 4)) (redirectOf_congr hp.supported _ fun hreads => ?_)
    have hown : ∀ x ∈ q.sources, produces (control q) q x = false := fun x hx =>
      (hp.produces_eq x).1.symm.trans ((no_hazard_source hz hx).2.2 hreads).1
    have hop {y : Option Reg} (hy : ∀ x, y = some x → x ∈ q.sources) :
        { p with regs := t.regs }.operandInId y = p.operand y := by
      rw [State.operandInId_operand (u := { p with regs := t.regs }) (z := t) hy (hp.noProducerAhead hown) rfl]
      cases y with
      | none => rfl
      | some x =>
        refine ((step_backEnd h).readReg x).trans (if_neg ?_)
        rw [(hp.produces_eq x).2.2, hown x (hy x rfl)]
        exact nofun
    rw [hidex, ← hop fun x => mem_sources_of_rs1, ← hop fun x => mem_sources_of_rs2]
    exact ⟨rfl, rfl⟩

/-- Unless it redirects, the step fetches the word again. -/
theorem Placed.step_ifid (h : step p = .next t) (hred : redirects q = false) : t.cur.ifid.ins = q := by
  have hfetched : t.cur.ifid = Machine.fetched p := by
    cases hz : hazard p.input.fwd p.cur q with
    | true => exact (step_of_nop_ifid h (by rw [hp.ifid, if_pos hz]; rfl)).2.1
    | false =>
      have hifid : p.cur.ifid = ⟨q, p.pc, id⟩ := hp.ifid.trans (if_neg (by rw [hz]; exact nofun))
      rw [Machine.step_ifid h (by rwa [hifid]), hifid, redirectOf_eq_none hp.supported hred]
      rfl
  rw [hfetched, hp.fetched]

end

/-- Settles O60: the placed instruction stands in every latch, and the step's WB, MEM and ID do its work. -/
theorem placedWordRunsInTheNextStep : Obligations.PlacedWordRunsInTheNextStep := by
  unfold Obligations.PlacedWordRunsInTheNextStep
  intro s e w i hwhole hi h hdiv
  generalize hpw : s.withFetchWord 32 w.toNat = p at h ⊢
  have hactivity : p.activity = .whole := by rw [← hpw, State.withFetchWord_activity, hwhole]
  have hinput : p.input.divOverflow = s.input.divOverflow := by
    obtain ⟨c, hc⟩ := s.withFetchWord_eq w
    rw [← hpw, hc]
    rfl
  obtain ⟨⟨r, hr, j, v, hj, haccess, hregs⟩, hpc⟩ := executes_of_exec (ins := decodeRecord w) hi hactivity h
  obtain rfl := Except.ok.inj (hi.symm.trans hj)
  obtain ⟨id, hp⟩ := placed_withFetchWord hi hpw hr haccess
  obtain ⟨t, ht⟩ := hp.step_isNext hr haccess (by rwa [hinput])
  have hback := step_backEnd ht
  obtain ⟨_, hmem, hdraws⟩ : t.cur.memwb = memwbOf (decodeRecord w) p.pc id r v ∧ t.mem = e.arch.mem ∧
      t.draws = e.arch.draws := by
    simpa using hback.mem.symm.trans (hp.memOut haccess)
  have hwritten : t.regs = e.regs :=
    hback.regs.trans ((State.writtenBack_of_latch hi hp.memwb rfl).trans hregs.symm)
  exact ⟨t, ht, hwritten, hmem, hdraws, fun hjalr => (hp.step_pc ht hjalr).trans hpc.symm, hp.step_ifid ht⟩

end Sys2Proof.Machine
end
